-- ==== Sys2Proof/Word.lean ====
section
/-! DEFINITION. The word types of the block (20_memory.md R55, 92_eei_decisions.md D21). -/

namespace Sys2Proof

/-- One byte: the width of a byte access and of a store element (R7 `DW`). -/
abbrev Byte := BitVec 8

/-- A 16-bit address (R7 `AW`, R50). Sixteen bits wide, so it is reduced modulo 0x10000 by construction (R51). -/
abbrev Addr := BitVec 16

/-- A 16-bit data word (R7, R53). -/
abbrev Word := BitVec 16

/-- A 40-bit operation word of format `T` (R81). -/
abbrev OpWord := BitVec 40

end Sys2Proof
end

