-- ==== Sys2Proof/Config.lean ====
section
/-! DEFINITION. The parameters of the block (00_scope.md R7) and the free values: what the spec leaves unspecified. -/

namespace Sys2Proof

/-- The seven stores (10_state.md R20; R9 names them). -/
inductive StoreId where
  | boot | rom | vram | eram | wram | oam | hram
  deriving DecidableEq, Repr

/-- `RDW_ORDER` (43_word_access.md R200, D14). -/
inductive RdwOrder where
  | lowFirst | highFirst | either
  deriving DecidableEq, Repr

/-- The parameters whose values are not in the source (R7, kind "default"). They are data of a machine, so that a
claim holds for every admissible choice of them; no step changes them (log 31). -/
structure Config where
  /-- `ADDR_INPUT` (D5). -/
  addrInput : Addr
  /-- `ADDR_IF` (D6). -/
  addrIf : Addr
  /-- `ADDR_DMA` (D7). -/
  addrDma : Addr
  /-- `DC_BLOCKS`: the accepted values of address bits 7:4 (D8), as a strictly rising list. -/
  dcBlocks : List (BitVec 4)
  /-- `RDW_ORDER` (D14). -/
  rdwOrder : RdwOrder
  deriving DecidableEq, Repr

namespace Config

/-- The defaults of R7. PRESUMED (the spec marks the addresses and the blocks other than 5 as general knowledge:
G1 to G4; log 5 to 8); `RDW_ORDER` is DESIGN CHOICE D14 (log 14). -/
def default : Config where
  addrInput := 0xFF00
  addrIf := 0xFF0F
  addrDma := 0xFF46
  dcBlocks := [4, 5, 6, 7]
  rdwOrder := .lowFirst

/-- An address inside `IO_PAGE`, 0xFF00 to 0xFF7F (R7). -/
def inIoPage (a : Addr) : Bool := decide (0xFF00#16 ≤ a) && decide (a ≤ 0xFF7F#16)

/-- The constraints R7 puts on every choice of the parameters: three distinct addresses inside `IO_PAGE`, and exactly
four blocks, all in 0 to 7, 5 among them. -/
def wf (c : Config) : Bool :=
  inIoPage c.addrInput && inIoPage c.addrIf && inIoPage c.addrDma &&
  (c.addrInput != c.addrIf) && (c.addrInput != c.addrDma) && (c.addrIf != c.addrDma) &&
  decide (c.dcBlocks.length = 4) && decide (c.dcBlocks.Pairwise (· < ·)) &&
  c.dcBlocks.all (fun k => decide (k < 8#4)) && c.dcBlocks.contains 5#4

/-- Sizes of the stores (R7, kind "fixed"). -/
def bootSize : Nat := 256
/-- `ROM_MIN_LEN`. -/
def romMinLen : Nat := 0x8000
/-- `VRAM_SIZE`. -/
def vramSize : Nat := 8192
/-- `ERAM_SIZE`. -/
def eramSize : Nat := 8192
/-- `WRAM_SIZE`. -/
def wramSize : Nat := 8192
/-- `OAM_SIZE`, which is also `DMA_LEN`. -/
def oamSize : Nat := 160
/-- `HRAM_SIZE`. -/
def hramSize : Nat := 128

/-- FREE VALUE: byte `o` of a store whose content the spec leaves unspecified (the boot overlay D18, the program image
before the first `LOAD` D17, video RAM and sprite table at power-on D19); fixed for the run, as U7 and U8 ask. -/
opaque unspecifiedByte : StoreId → Nat → Byte

/-- FREE VALUE: by how much the program image of power-on is longer than 0x8000 bytes (R23; log 32). -/
opaque unspecifiedRomExtra : Nat

/-- FREE VALUE: the `n`-th answer of a collaborator to a read event (60_exceptions.md R241, D20). -/
opaque freeAnswer : Nat → Byte

/-- FREE VALUE: whether the `n`-th draw reads the low byte first, under `RDW_ORDER = Either` (D14). -/
opaque freeLowFirst : Nat → Bool

end Config

end Sys2Proof
end

