-- ==== Sys2Proof/Syntax.lean ====
section
/-! DEFINITION. The operations (30_encoding.md R82, R94): one constructor per row of the opcode table, and the two
small types the decoder speaks in: the 18 address entries of R94 and the 14 destinations of R111. -/

namespace Sys2Proof

/-- The 18 address entries of R94, in the table's order; each is one `RDB` row and one `WRB` row. -/
inductive Entry where
  /-- IE, 0xFFFF. -/
  | ie
  /-- HRAM, 0xFF80 to 0xFFFE. -/
  | hram
  /-- INPUT, `ADDR_INPUT`. -/
  | input
  /-- IF, `ADDR_IF`. -/
  | ifReg
  /-- DMA, `ADDR_DMA`. -/
  | dma
  /-- DCREG, the display-controller blocks. -/
  | dcreg
  /-- IOZERO, undecoded I/O. -/
  | iozero
  /-- OAM, 0xFE00 to 0xFE7F. -/
  | oamLo
  /-- OAM, 0xFE80 to 0xFE9F. -/
  | oamHi
  /-- UNUSABLE, 0xFEA0 to 0xFEFF. -/
  | unusable
  /-- WRAM, 0xC000 to 0xDFFF. -/
  | wram
  /-- WRAM, 0xE000 to 0xFDFF. -/
  | wramMirror
  /-- ERAM, 0xA000 to 0xBFFF. -/
  | eram
  /-- VRAM, 0x8000 to 0x8FFF. -/
  | vramTileLo
  /-- VRAM, 0x9000 to 0x97FF. -/
  | vramTileHi
  /-- VRAM, 0x9800 to 0x9FFF. -/
  | vramMap
  /-- BOOT, 0x0000 to 0x00FF while `ov = 1`. -/
  | boot
  /-- ROM, 0x0000 to 0x7FFF. -/
  | rom
  deriving DecidableEq, Repr

/-- The 14 destinations of 40_address_decoder.md R111; seven carry an offset into a store. -/
inductive Dest where
  | boot (o : Addr)
  | rom (o : Addr)
  | vram (o : Addr)
  | eram (o : Addr)
  | wram (o : Addr)
  | oam (o : Addr)
  | hram (o : Addr)
  | input
  | ifReg
  | ie
  | dma
  | dcreg
  | unusable
  | iozero
  deriving DecidableEq, Repr

/-- The operations, one constructor per row of opcode_table.json. The rows `RDB.<entry>` together are the one
operation `RDB`, the rows `WRB.<entry>` the one operation `WRB` (R94). An entry of one single address carries no
address operand: the address is 0xFFFF or a parameter. -/
inductive Instr where
  /-- `RDB` at IE, 0xFFFF (R154). -/
  | rdbIe
  /-- `RDB` at HRAM, 0xFF80 to 0xFFFE (R153). -/
  | rdbHram (a : Addr)
  /-- `RDB` at INPUT, `ADDR_INPUT` (R148). -/
  | rdbInput
  /-- `RDB` at IF, `ADDR_IF` (R149). -/
  | rdbIf
  /-- `RDB` at DMA, `ADDR_DMA` (R150). -/
  | rdbDma
  /-- `RDB` at DCREG, the display-controller blocks (R151). -/
  | rdbDcreg (a : Addr)
  /-- `RDB` at IOZERO, undecoded I/O (R152). -/
  | rdbIozero (a : Addr)
  /-- `RDB` at OAM, 0xFE00 to 0xFE7F (R146). -/
  | rdbOamLo (a : Addr)
  /-- `RDB` at OAM, 0xFE80 to 0xFE9F (R146). -/
  | rdbOamHi (a : Addr)
  /-- `RDB` at UNUSABLE, 0xFEA0 to 0xFEFF (R147). -/
  | rdbUnusable (a : Addr)
  /-- `RDB` at WRAM, 0xC000 to 0xDFFF (R145). -/
  | rdbWram (a : Addr)
  /-- `RDB` at WRAM, 0xE000 to 0xFDFF (R145). -/
  | rdbWramMirror (a : Addr)
  /-- `RDB` at ERAM, 0xA000 to 0xBFFF (R144). -/
  | rdbEram (a : Addr)
  /-- `RDB` at VRAM, 0x8000 to 0x8FFF (R143). -/
  | rdbVramTileLo (a : Addr)
  /-- `RDB` at VRAM, 0x9000 to 0x97FF (R143). -/
  | rdbVramTileHi (a : Addr)
  /-- `RDB` at VRAM, 0x9800 to 0x9FFF (R143). -/
  | rdbVramMap (a : Addr)
  /-- `RDB` at BOOT, 0x0000 to 0x00FF while `ov = 1` (R141). -/
  | rdbBoot (a : Addr)
  /-- `RDB` at ROM, 0x0000 to 0x7FFF (R142). -/
  | rdbRom (a : Addr)
  /-- `WRB` at IE, 0xFFFF (R174). -/
  | wrbIe (v : Byte)
  /-- `WRB` at HRAM, 0xFF80 to 0xFFFE (R173). -/
  | wrbHram (a : Addr) (v : Byte)
  /-- `WRB` at INPUT, `ADDR_INPUT` (R168). -/
  | wrbInput (v : Byte)
  /-- `WRB` at IF, `ADDR_IF` (R169). -/
  | wrbIf (v : Byte)
  /-- `WRB` at DMA, `ADDR_DMA` (R170). -/
  | wrbDma (v : Byte)
  /-- `WRB` at DCREG, the display-controller blocks (R171). -/
  | wrbDcreg (a : Addr) (v : Byte)
  /-- `WRB` at IOZERO, undecoded I/O (R172). -/
  | wrbIozero (a : Addr) (v : Byte)
  /-- `WRB` at OAM, 0xFE00 to 0xFE7F (R166). -/
  | wrbOamLo (a : Addr) (v : Byte)
  /-- `WRB` at OAM, 0xFE80 to 0xFE9F (R166). -/
  | wrbOamHi (a : Addr) (v : Byte)
  /-- `WRB` at UNUSABLE, 0xFEA0 to 0xFEFF (R167). -/
  | wrbUnusable (a : Addr) (v : Byte)
  /-- `WRB` at WRAM, 0xC000 to 0xDFFF (R165). -/
  | wrbWram (a : Addr) (v : Byte)
  /-- `WRB` at WRAM, 0xE000 to 0xFDFF (R165). -/
  | wrbWramMirror (a : Addr) (v : Byte)
  /-- `WRB` at ERAM, 0xA000 to 0xBFFF (R164). -/
  | wrbEram (a : Addr) (v : Byte)
  /-- `WRB` at VRAM, 0x8000 to 0x8FFF (R163). -/
  | wrbVramTileLo (a : Addr) (v : Byte)
  /-- `WRB` at VRAM, 0x9000 to 0x97FF (R163). -/
  | wrbVramTileHi (a : Addr) (v : Byte)
  /-- `WRB` at VRAM, 0x9800 to 0x9FFF (R163). -/
  | wrbVramMap (a : Addr) (v : Byte)
  /-- `WRB` at BOOT, 0x0000 to 0x00FF while `ov = 1` (R161). -/
  | wrbBoot (a : Addr) (v : Byte)
  /-- `WRB` at ROM, 0x0000 to 0x7FFF (R162). -/
  | wrbRom (a : Addr) (v : Byte)
  /-- `RDW a` (R200). -/
  | rdw (a : Addr)
  /-- `WRW a, w` (R201). -/
  | wrw (a : Addr) (w : Word)
  /-- `LOAD` (R210); the image is on the side port. -/
  | load
  /-- `RESET` (R211). -/
  | reset
  /-- `BOOTOFF` (R212). -/
  | bootoff
  deriving DecidableEq, Repr

end Sys2Proof
end

