-- ==== Sys2Proof/WellFormed.lean ====
section
/-! DEFINITION. Which terms of `Instr` are operations of the table: the address operand lies in the row's window
(opcode_table.json `window_lo`, `window_hi`, `window_excludes`, `condition`; 30_encoding.md R94). -/

namespace Sys2Proof

/-- `lo <= a <= hi`, as unsigned numbers (R8, R67e). -/
def within (lo hi a : Addr) : Bool := decide (lo ≤ a) && decide (a ≤ hi)

/-- The three named single-address registers of the I/O page (R121, 3a). -/
def namedRegister (c : Config) (a : Addr) : Bool := a == c.addrInput || a == c.addrIf || a == c.addrDma

/-- `a[7:4]` is one of the accepted values `DC_BLOCKS` (R125). -/
def inDcBlocks (c : Config) (a : Addr) : Bool := c.dcBlocks.contains (a.extractLsb' 4 4)

/-- The addresses that reach an entry of R94 (the table's last column), with the overlay flag `ov`. -/
def Entry.admits (c : Config) (ov : Bool) : Entry → Addr → Bool
  | .ie, a => a == 0xFFFF#16
  | .hram, a => within 0xFF80#16 0xFFFE#16 a
  | .input, a => a == c.addrInput
  | .ifReg, a => a == c.addrIf
  | .dma, a => a == c.addrDma
  | .dcreg, a => Config.inIoPage a && !namedRegister c a && inDcBlocks c a
  | .iozero, a => Config.inIoPage a && !namedRegister c a && !inDcBlocks c a
  | .oamLo, a => within 0xFE00#16 0xFE7F#16 a
  | .oamHi, a => within 0xFE80#16 0xFE9F#16 a
  | .unusable, a => within 0xFEA0#16 0xFEFF#16 a
  | .wram, a => within 0xC000#16 0xDFFF#16 a
  | .wramMirror, a => within 0xE000#16 0xFDFF#16 a
  | .eram, a => within 0xA000#16 0xBFFF#16 a
  | .vramTileLo, a => within 0x8000#16 0x8FFF#16 a
  | .vramTileHi, a => within 0x9000#16 0x97FF#16 a
  | .vramMap, a => within 0x9800#16 0x9FFF#16 a
  | .boot, a => ov && within 0x0000#16 0x00FF#16 a
  | .rom, a => within 0x0000#16 0x7FFF#16 a && !(ov && within 0x0000#16 0x00FF#16 a)

/-- The operand check of each operation, for the parameters `c` and the overlay flag `ov`. Operations without an
address operand, and word operations (any address, R54), have nothing to check. -/
def Instr.wellFormed (c : Config) (ov : Bool) : Instr → Bool
  | .rdbIe => true
  | .rdbHram a => Entry.hram.admits c ov a
  | .rdbInput => true
  | .rdbIf => true
  | .rdbDma => true
  | .rdbDcreg a => Entry.dcreg.admits c ov a
  | .rdbIozero a => Entry.iozero.admits c ov a
  | .rdbOamLo a => Entry.oamLo.admits c ov a
  | .rdbOamHi a => Entry.oamHi.admits c ov a
  | .rdbUnusable a => Entry.unusable.admits c ov a
  | .rdbWram a => Entry.wram.admits c ov a
  | .rdbWramMirror a => Entry.wramMirror.admits c ov a
  | .rdbEram a => Entry.eram.admits c ov a
  | .rdbVramTileLo a => Entry.vramTileLo.admits c ov a
  | .rdbVramTileHi a => Entry.vramTileHi.admits c ov a
  | .rdbVramMap a => Entry.vramMap.admits c ov a
  | .rdbBoot a => Entry.boot.admits c ov a
  | .rdbRom a => Entry.rom.admits c ov a
  | .wrbIe _ => true
  | .wrbHram a _ => Entry.hram.admits c ov a
  | .wrbInput _ => true
  | .wrbIf _ => true
  | .wrbDma _ => true
  | .wrbDcreg a _ => Entry.dcreg.admits c ov a
  | .wrbIozero a _ => Entry.iozero.admits c ov a
  | .wrbOamLo a _ => Entry.oamLo.admits c ov a
  | .wrbOamHi a _ => Entry.oamHi.admits c ov a
  | .wrbUnusable a _ => Entry.unusable.admits c ov a
  | .wrbWram a _ => Entry.wram.admits c ov a
  | .wrbWramMirror a _ => Entry.wramMirror.admits c ov a
  | .wrbEram a _ => Entry.eram.admits c ov a
  | .wrbVramTileLo a _ => Entry.vramTileLo.admits c ov a
  | .wrbVramTileHi a _ => Entry.vramTileHi.admits c ov a
  | .wrbVramMap a _ => Entry.vramMap.admits c ov a
  | .wrbBoot a _ => Entry.boot.admits c ov a
  | .wrbRom a _ => Entry.rom.admits c ov a
  | .rdw _ => true
  | .wrw _ _ => true
  | .load => true
  | .reset => true
  | .bootoff => true

end Sys2Proof
end

