-- ==== Sys2Proof/Decode.lean ====
section
/-! DEFINITION. The address decoder (40_address_decoder.md R130), the operation map (30_encoding.md R94), the decoder
of operation words (R81, R82, R88), and after them the encoder. -/

namespace Sys2Proof

/-! ### Offsets into the stores (30_encoding.md R85) -/

/-- `a & 0x00FF`: the offset into `boot` and into `oam` (R85, 90_conflicts.md C4). -/
def offsetPage (a : Addr) : Addr := a &&& 0x00FF#16

/-- `a & 0x7FFF`: the offset into `rom`, equal to `a` inside the window (R85). -/
def offsetRom (a : Addr) : Addr := a &&& 0x7FFF#16

/-- `a & 0x1FFF`: the offset into `vram`, `eram`, `wram` ("the low 13 bits", R85). -/
def offset13 (a : Addr) : Addr := a &&& 0x1FFF#16

/-- `a & 0x007F`: the offset into `hram` (R85). -/
def offsetHram (a : Addr) : Addr := a &&& 0x007F#16

/-! ### The address decoder -/

/-- The image window 0x0000 to 0x7FFF: the boot overlay answers its first page while `ov = 1`, the program image
everything else (R113, R114, R91). -/
def imageWindowDest (ov : Bool) (a : Addr) : Dest :=
  if ov = true ∧ a.extractLsb' 8 8 = 0x00#8 then .boot (offsetPage a) else .rom (offsetRom a)

/-- `Decode(a, ov)` of R130, test by test in the order written there. -/
def decodeAddr (c : Config) (ov : Bool) (a : Addr) : Dest :=
  if a.extractLsb' 15 1 = 0#1 then imageWindowDest ov a
  else if a.extractLsb' 13 3 = 0b100#3 then .vram (offset13 a)
  else if a.extractLsb' 13 3 = 0b101#3 then .eram (offset13 a)
  else if a.extractLsb' 13 3 = 0b110#3 then .wram (offset13 a)
  else if a ≤ 0xFDFF#16 then .wram (offset13 a)
  else if a.extractLsb' 8 8 = 0xFE#8 then
    if a.extractLsb' 0 8 < 0xA0#8 then .oam (offsetPage a) else .unusable
  else if a = 0xFFFF#16 then .ie
  else if a.extractLsb' 7 1 = 1#1 then .hram (offsetHram a)
  else if a = c.addrInput then .input
  else if a = c.addrIf then .ifReg
  else if a = c.addrDma then .dma
  else if inDcBlocks c a then .dcreg
  else .iozero

/-! ### The operation map: the ordered (mask, match) pairs of R94 -/

/-- One row of R94: the address matches when `addr & mask = value`; `needsOv` is the condition `ov = 1`. -/
structure EntryRow where
  mask : Addr
  value : Addr
  needsOv : Bool
  entry : Entry
  deriving DecidableEq, Repr

/-- The row's test. -/
def EntryRow.hits (ov : Bool) (a : Addr) (r : EntryRow) : Bool :=
  (a &&& r.mask == r.value) && (!r.needsOv || ov)

/-- The address of `DC_BLOCKS` member `k`: `0xFF00 + 16 k` (R31). -/
def dcBlockBase (k : BitVec 4) : Addr := 0xFF#8 ++ (k ++ 0#4)

/-- Row 6 of R94, one pair per accepted block (four blocks of 16 addresses; with the default blocks 4 to 7 they are
together the one pair `0xFFC0`, `0xFF40` of the table). -/
def dcRows (c : Config) : List EntryRow :=
  c.dcBlocks.map fun k => ⟨0xFFF0#16, dcBlockBase k, false, .dcreg⟩

/-- The list of R94, with rows 3 to 6 following the parameters. -/
def entryRows (c : Config) : List EntryRow :=
  [⟨0xFFFF#16, 0xFFFF#16, false, .ie⟩,
   ⟨0xFF80#16, 0xFF80#16, false, .hram⟩,
   ⟨0xFFFF#16, c.addrInput, false, .input⟩,
   ⟨0xFFFF#16, c.addrIf, false, .ifReg⟩,
   ⟨0xFFFF#16, c.addrDma, false, .dma⟩] ++
  (dcRows c ++
  [⟨0xFF80#16, 0xFF00#16, false, .iozero⟩,
   ⟨0xFF80#16, 0xFE00#16, false, .oamLo⟩,
   ⟨0xFFE0#16, 0xFE80#16, false, .oamHi⟩,
   ⟨0xFF00#16, 0xFE00#16, false, .unusable⟩,
   ⟨0xE000#16, 0xC000#16, false, .wram⟩,
   ⟨0xE000#16, 0xE000#16, false, .wramMirror⟩,
   ⟨0xE000#16, 0xA000#16, false, .eram⟩,
   ⟨0xF000#16, 0x8000#16, false, .vramTileLo⟩,
   ⟨0xF800#16, 0x9000#16, false, .vramTileHi⟩,
   ⟨0xF800#16, 0x9800#16, false, .vramMap⟩,
   ⟨0xFF00#16, 0x0000#16, true, .boot⟩,
   ⟨0x8000#16, 0x0000#16, false, .rom⟩])

/-- The first row that matches, or nothing. -/
def findEntry (c : Config) (ov : Bool) (a : Addr) : Option Entry :=
  ((entryRows c).find? (EntryRow.hits ov a)).map EntryRow.entry

/-- The destination column of R94: what an entry's row acts on, at the address `a`. -/
def entryDest (ov : Bool) : Entry → Addr → Dest
  | .ie, _ => .ie
  | .hram, a => .hram (offsetHram a)
  | .input, _ => .input
  | .ifReg, _ => .ifReg
  | .dma, _ => .dma
  | .dcreg, _ => .dcreg
  | .iozero, _ => .iozero
  | .oamLo, a => .oam (offsetPage a)
  | .oamHi, a => .oam (offsetPage a)
  | .unusable, _ => .unusable
  | .wram, a => .wram (offset13 a)
  | .wramMirror, a => .wram (offset13 a)
  | .eram, a => .eram (offset13 a)
  | .vramTileLo, a => .vram (offset13 a)
  | .vramTileHi, a => .vram (offset13 a)
  | .vramMap, a => .vram (offset13 a)
  | .boot, a => imageWindowDest ov a
  | .rom, a => imageWindowDest ov a

/-- The address an entry's row acts at: the operand, or the one address of a single-address entry. -/
def entryAddr (c : Config) : Entry → Addr → Addr
  | .ie, _ => 0xFFFF#16
  | .input, _ => c.addrInput
  | .ifReg, _ => c.addrIf
  | .dma, _ => c.addrDma
  | _, a => a

/-! ### The decoder of operation words -/

/-- `cmd`, bits 39:32 (R81). -/
def opCmd (w : OpWord) : Byte := w.extractLsb' 32 8

/-- `addr`, bits 31:16 (R81). -/
def opAddr (w : OpWord) : Addr := w.extractLsb' 16 16

/-- `data`, bits 15:0 (R81). -/
def opData (w : OpWord) : Word := w.extractLsb' 0 16

/-- The `RDB` row of an entry. -/
def rdbRow : Entry → Addr → Instr
  | .ie, _ => .rdbIe
  | .hram, a => .rdbHram a
  | .input, _ => .rdbInput
  | .ifReg, _ => .rdbIf
  | .dma, _ => .rdbDma
  | .dcreg, a => .rdbDcreg a
  | .iozero, a => .rdbIozero a
  | .oamLo, a => .rdbOamLo a
  | .oamHi, a => .rdbOamHi a
  | .unusable, a => .rdbUnusable a
  | .wram, a => .rdbWram a
  | .wramMirror, a => .rdbWramMirror a
  | .eram, a => .rdbEram a
  | .vramTileLo, a => .rdbVramTileLo a
  | .vramTileHi, a => .rdbVramTileHi a
  | .vramMap, a => .rdbVramMap a
  | .boot, a => .rdbBoot a
  | .rom, a => .rdbRom a

/-- The `WRB` row of an entry. -/
def wrbRow : Entry → Addr → Byte → Instr
  | .ie, _, v => .wrbIe v
  | .hram, a, v => .wrbHram a v
  | .input, _, v => .wrbInput v
  | .ifReg, _, v => .wrbIf v
  | .dma, _, v => .wrbDma v
  | .dcreg, a, v => .wrbDcreg a v
  | .iozero, a, v => .wrbIozero a v
  | .oamLo, a, v => .wrbOamLo a v
  | .oamHi, a, v => .wrbOamHi a v
  | .unusable, a, v => .wrbUnusable a v
  | .wram, a, v => .wrbWram a v
  | .wramMirror, a, v => .wrbWramMirror a v
  | .eram, a, v => .wrbEram a v
  | .vramTileLo, a, v => .wrbVramTileLo a v
  | .vramTileHi, a, v => .wrbVramTileHi a v
  | .vramMap, a, v => .wrbVramMap a v
  | .boot, a, v => .wrbBoot a v
  | .rom, a, v => .wrbRom a v

/-- Why a word is rejected. -/
inductive DecodeError where
  /-- Command codes 0x07 to 0xFF are reserved (R88). -/
  | reservedCommand (cmd : Byte)
  /-- No row of R94 matches the address. It never happens: every address is classified (R129). -/
  | unclassified (a : Addr)
  deriving DecidableEq, Repr

/-- A byte operation's row, by its address. -/
def decodeByteOp (c : Config) (ov : Bool) (a : Addr) (row : Entry → Instr) : Except DecodeError Instr :=
  match findEntry c ov a with
  | some e => .ok (row e)
  | none => .error (.unclassified a)

/-- The operation a word stands for (R82): by `cmd`, and for the byte operations by the address and `ov` (R94).
Unused fields are ignored (R82, R90); a reserved code is rejected (R88). -/
def decode (c : Config) (ov : Bool) (w : OpWord) : Except DecodeError Instr :=
  if opCmd w = 0x00#8 then decodeByteOp c ov (opAddr w) fun e => rdbRow e (opAddr w)
  else if opCmd w = 0x01#8 then decodeByteOp c ov (opAddr w) fun e => wrbRow e (opAddr w) ((opData w).extractLsb' 0 8)
  else if opCmd w = 0x02#8 then .ok (.rdw (opAddr w))
  else if opCmd w = 0x03#8 then .ok (.wrw (opAddr w) (opData w))
  else if opCmd w = 0x04#8 then .ok .load
  else if opCmd w = 0x05#8 then .ok .reset
  else if opCmd w = 0x06#8 then .ok .bootoff
  else .error (.reservedCommand (opCmd w))

/-- An operation word from the low `nbits` bits of `w`; the bits above are zero. -/
def opWordOf (nbits w : Nat) : OpWord := BitVec.ofNat 40 (w % 2 ^ nbits)

/-- What the decoder reads from a table word, with the default parameters and the overlay active, as right after
reset (log 33). -/
def decodeTableWord (nbits w : Nat) : Option Instr :=
  match decode Config.default true (opWordOf nbits w) with
  | .ok i => some i
  | .error _ => none

/-! ### The encoder -/

/-- A format-`T` word from its fields (R81). -/
def opWord (cmd : Byte) (a : Addr) (d : Word) : OpWord := cmd ++ (a ++ d)

/-- Write data of a `WRB`: the byte in bits 7:0, bits 15:8 zero in the canonical encoding (R82, D4). -/
def byteData (v : Byte) : Word := 0x00#8 ++ v

/-- The canonical word of an operation (R81, R82): unused fields zero. -/
def encode (c : Config) : Instr → OpWord
  | .rdbIe => opWord 0x00#8 0xFFFF#16 0x0000#16
  | .rdbHram a => opWord 0x00#8 a 0x0000#16
  | .rdbInput => opWord 0x00#8 c.addrInput 0x0000#16
  | .rdbIf => opWord 0x00#8 c.addrIf 0x0000#16
  | .rdbDma => opWord 0x00#8 c.addrDma 0x0000#16
  | .rdbDcreg a => opWord 0x00#8 a 0x0000#16
  | .rdbIozero a => opWord 0x00#8 a 0x0000#16
  | .rdbOamLo a => opWord 0x00#8 a 0x0000#16
  | .rdbOamHi a => opWord 0x00#8 a 0x0000#16
  | .rdbUnusable a => opWord 0x00#8 a 0x0000#16
  | .rdbWram a => opWord 0x00#8 a 0x0000#16
  | .rdbWramMirror a => opWord 0x00#8 a 0x0000#16
  | .rdbEram a => opWord 0x00#8 a 0x0000#16
  | .rdbVramTileLo a => opWord 0x00#8 a 0x0000#16
  | .rdbVramTileHi a => opWord 0x00#8 a 0x0000#16
  | .rdbVramMap a => opWord 0x00#8 a 0x0000#16
  | .rdbBoot a => opWord 0x00#8 a 0x0000#16
  | .rdbRom a => opWord 0x00#8 a 0x0000#16
  | .wrbIe v => opWord 0x01#8 0xFFFF#16 (byteData v)
  | .wrbHram a v => opWord 0x01#8 a (byteData v)
  | .wrbInput v => opWord 0x01#8 c.addrInput (byteData v)
  | .wrbIf v => opWord 0x01#8 c.addrIf (byteData v)
  | .wrbDma v => opWord 0x01#8 c.addrDma (byteData v)
  | .wrbDcreg a v => opWord 0x01#8 a (byteData v)
  | .wrbIozero a v => opWord 0x01#8 a (byteData v)
  | .wrbOamLo a v => opWord 0x01#8 a (byteData v)
  | .wrbOamHi a v => opWord 0x01#8 a (byteData v)
  | .wrbUnusable a v => opWord 0x01#8 a (byteData v)
  | .wrbWram a v => opWord 0x01#8 a (byteData v)
  | .wrbWramMirror a v => opWord 0x01#8 a (byteData v)
  | .wrbEram a v => opWord 0x01#8 a (byteData v)
  | .wrbVramTileLo a v => opWord 0x01#8 a (byteData v)
  | .wrbVramTileHi a v => opWord 0x01#8 a (byteData v)
  | .wrbVramMap a v => opWord 0x01#8 a (byteData v)
  | .wrbBoot a v => opWord 0x01#8 a (byteData v)
  | .wrbRom a v => opWord 0x01#8 a (byteData v)
  | .rdw a => opWord 0x02#8 a 0x0000#16
  | .wrw a w => opWord 0x03#8 a w
  | .load => opWord 0x04#8 0x0000#16 0x0000#16
  | .reset => opWord 0x05#8 0x0000#16 0x0000#16
  | .bootoff => opWord 0x06#8 0x0000#16 0x0000#16

end Sys2Proof
end

