-- ==== Sys2Proof/Machine/State.lean ====
section
/-! DEFINITION. The state of the Memory Router (10_state.md R20), its ports and event trace (R80, R10), the reasons of
a refusal, and the state after power-on (70_reset_and_hazards.md R250). -/

namespace Sys2Proof.Machine

/-- What a byte that a store does not list holds. -/
inductive Blank where
  /-- The byte 0x00 (a zero-initialized store, and the unlisted bytes of a loaded image). -/
  | zero
  /-- Unspecified content: reads as a free value, fixed until the byte is written (R23, R24, R27, R22). -/
  | unspecified
  deriving DecidableEq, Repr

/-- One store: its size in bytes, what an unlisted byte holds, and the listed bytes by rising offset.
Canonical form: `Memory.wf`. -/
structure Memory where
  size : Nat
  blank : Blank
  cells : List Host.Cell
  deriving DecidableEq, Repr

/-- Offsets strictly rising. -/
def cellsRising : List Host.Cell → Bool
  | [] => true
  | [_] => true
  | x :: y :: rest => decide (x.1 < y.1) && cellsRising (y :: rest)

/-- The canonical form: offsets strictly rising and inside the store, no listed byte equal to what the byte would hold
unlisted. (A store of unspecified content holds no value unlisted, so every written byte of it is listed.) -/
def Memory.wf (m : Memory) : Bool :=
  cellsRising m.cells && m.cells.all (fun p => decide (p.1 < m.size)) &&
  (decide (m.blank = .unspecified) || m.cells.all (fun p => p.2 != 0x00#8))

/-- A store of `n` zero bytes ("zero-initialized", R25, R26, R28). -/
def Memory.zeros (n : Nat) : Memory := ⟨n, .zero, []⟩

/-- A store of `n` bytes of unspecified content. -/
def Memory.unspecified (n : Nat) : Memory := ⟨n, .unspecified, []⟩

/-- A program image on the side port (R80, R210): a byte sequence of length `len`, given by its bytes other than 0x00,
by rising offset. -/
structure Image where
  len : Nat
  cells : List Host.Cell
  deriving DecidableEq, Repr

/-- The store an image makes (R210). -/
def Image.memory (img : Image) : Memory := ⟨img.len, .zero, img.cells⟩

/-- One request: the operation word on the requester port and the image on the side port (R80, R81). -/
structure Request where
  word : OpWord
  img : Image
  deriving DecidableEq, Repr

/-- The ten events of 00_scope.md R10. A read event carries the byte it was answered with. -/
inductive Event where
  | tile (a : Addr) (v : Byte)
  | sprite (a : Addr) (v : Byte)
  | dcRd (a : Addr) (answer : Byte)
  | dcWr (a : Addr) (v : Byte)
  | icGetIE (answer : Byte)
  | icSetIE (v : Byte)
  | icGetIF (answer : Byte)
  | icSetIF (v : Byte)
  | inRd (answer : Byte)
  | inWr (v : Byte)
  deriving DecidableEq, Repr

/-- No constructor: the block raises nothing (60_exceptions.md R230). -/
inductive Fault where
  deriving DecidableEq, Repr

/-- The model's refusals; the block itself has none (60_exceptions.md R232). -/
inductive Refusal where
  /-- Raised by `exec`'s arm of an operation that has no meaning yet; no arm does. Safe. -/
  | notModelled (mnemonic : String)
  /-- Raised by `step` on a word with a reserved command code 0x07 to 0xFF (R88, D3). Safe. -/
  | reservedCommand (cmd : Byte)
  /-- Raised by `LOAD` of an image of fewer than 0x8000 bytes (R210, D17). Safe. -/
  | shortImage (len : Nat)
  /-- Raised by `step` on a byte operation whose address no row of R94 matches; never, since every address is classified
  (R129). Safe. -/
  | unclassified (a : Addr)
  deriving DecidableEq, Repr

/-- The machine. The first eight fields after `cfg` are the state of R20; then the ports and the trace; `cfg`,
`answers` and `draws` are the model's own (INVENTORY.md). -/
structure State where
  /-- The parameters of R7 (log 31). -/
  cfg : Config
  /-- The overlay-active flag (R21). -/
  ov : Bool
  /-- The boot overlay (R22). -/
  boot : Memory
  /-- The program image (R23). -/
  rom : Memory
  /-- Video RAM (R24). -/
  vram : Memory
  /-- Cartridge RAM (R25). -/
  eram : Memory
  /-- Work RAM (R26). -/
  wram : Memory
  /-- The sprite attribute table (R27). -/
  oam : Memory
  /-- High RAM (R28). -/
  hram : Memory
  /-- The operations the requester has still to issue; the first is the one on the requester port (R80, log 27). -/
  requests : List Request
  /-- The image side port, as last driven (R80, log 28). -/
  img : Image
  /-- The response port: the word the last operation returned, or nothing where it returns nothing (R83, log 22). -/
  rsp : Option Word
  /-- The event trace, oldest first (R10, log 29). -/
  trace : List Event
  /-- The answers the collaborators have lined up for the next read events (R241, log 20). -/
  answers : List Byte
  /-- How many free draws have been made (log 20). -/
  draws : Nat
  deriving DecidableEq, Repr

/-- The store of a name. -/
def State.memory (s : State) : StoreId → Memory
  | .boot => s.boot
  | .rom => s.rom
  | .vram => s.vram
  | .eram => s.eram
  | .wram => s.wram
  | .oam => s.oam
  | .hram => s.hram

/-- The state after power-on, before any operation (R250): the overlay active, the three RAM stores zero, the other
stores unspecified, the trace empty. The ports and the model's own fields are DESIGN CHOICE (log 20, 22, 27, 28). -/
def State.reset : State where
  cfg := Config.default
  ov := true
  boot := Memory.unspecified Config.bootSize
  rom := Memory.unspecified (Config.romMinLen + Config.unspecifiedRomExtra)
  vram := Memory.unspecified Config.vramSize
  eram := Memory.zeros Config.eramSize
  wram := Memory.zeros Config.wramSize
  oam := Memory.unspecified Config.oamSize
  hram := Memory.zeros Config.hramSize
  requests := []
  img := ⟨0, []⟩
  rsp := none
  trace := []
  answers := []
  draws := 0

end Sys2Proof.Machine
end

