-- ==== Sys2Proof/Machine/Flags.lean ====
section
/-! DEFINITION. The flags: the block has one, `ov`, and no condition codes (10_state.md R21). -/

namespace Sys2Proof.Machine

/-- `ov <- 1`, by `RESET` only (R21, R211). -/
def State.setOverlay (s : State) : State := { s with ov := true }

/-- `ov <- 0`, by `BOOTOFF` only (R21, R212). -/
def State.clearOverlay (s : State) : State := { s with ov := false }

end Sys2Proof.Machine
end

