-- ==== Sys2Proof/Machine/Operands.lean ====
section
/-! DEFINITION. Operand assembly: results, word halves, the DMA engine's addresses (30_encoding.md R83, R86, R87;
20_memory.md R67). -/

namespace Sys2Proof.Machine

/-- A byte result, zero-extended into the 16-bit response (R83, R87). -/
def byteResult (v : Byte) : Word := 0x00#8 ++ v

/-- The address of a word's second byte: `(a + 1) mod 0x10000` (R51, R67a). -/
def nextAddr (a : Addr) : Addr := a + 1#16

/-- `hi << 8 | lo` (R87). -/
def wordOf (hi lo : Byte) : Word := hi ++ lo

/-- `value & 0xFF` (R87). -/
def lowByte (w : Word) : Byte := w.extractLsb' 0 8

/-- `(value >> 8) & 0xFF` (R87). -/
def highByte (w : Word) : Byte := w.extractLsb' 8 8

/-- `source = V << 8` (R86). -/
def dmaSource (v : Byte) : Addr := v ++ 0x00#8

/-- The `i`-th read address of a transfer, `source + i` (R86). -/
def dmaRead (v : Byte) (i : Nat) : Addr := dmaSource v + BitVec.ofNat 16 i

/-- The `i`-th destination address, announced to the display controller: `0xFE00 + i` (R86, R190). -/
def dmaDest (i : Nat) : Addr := 0xFE00#16 + BitVec.ofNat 16 i

/-- `TILE_LIMIT`: writes strictly below it fire the tile hook (R7, R163). -/
def tileLimit : Addr := 0x9800#16

/-- The address of `IE` (R7, R128). -/
def addrIe : Addr := 0xFFFF#16

/-- `DMA_LEN` (R7, R190; 90_conflicts.md C1). -/
def dmaLen : Nat := 160

end Sys2Proof.Machine
end

