-- ==== Sys2Proof/Machine/Ops.lean ====
section
/-! DEFINITION. The shared operations: the stores, the event ports, byte read and byte write at every destination, the
DMA transfer, responses. The block takes no exception and has no return from one (60_exceptions.md R230, R234), so
there is no such operation here. -/

namespace Sys2Proof.Machine

/-! ### Stores -/

/-- The listed byte at offset `k`. -/
def cellsGet : List Host.Cell → Nat → Option Byte
  | [], _ => none
  | x :: rest, k => if k = x.1 then some x.2 else cellsGet rest k

/-- List byte `v` at offset `k`, keeping the offsets rising. -/
def cellsPut : List Host.Cell → Nat → Byte → List Host.Cell
  | [], k, v => [(k, v)]
  | x :: rest, k, v =>
    if k < x.1 then (k, v) :: x :: rest
    else if k = x.1 then (k, v) :: rest
    else x :: cellsPut rest k v

/-- Unlist offset `k`. -/
def cellsDrop : List Host.Cell → Nat → List Host.Cell
  | [], _ => []
  | x :: rest, k => if k = x.1 then cellsDrop rest k else x :: cellsDrop rest k

/-- What an unlisted byte of a store reads as: 0x00, or the free value of that byte. -/
def Blank.byte (b : Blank) (id : StoreId) (k : Nat) : Byte :=
  match b with
  | .zero => 0x00#8
  | .unspecified => Config.unspecifiedByte id k

/-- `S[o]`: byte `k` of a store (R9). -/
def Memory.read (m : Memory) (id : StoreId) (k : Nat) : Byte :=
  match cellsGet m.cells k with
  | some v => v
  | none => m.blank.byte id k

/-- `S[o] <- v` (R9), keeping the canonical form: writing 0x00 to a store whose unlisted bytes are 0x00 unlists. -/
def Memory.write (m : Memory) (k : Nat) (v : Byte) : Memory :=
  if m.blank = .zero ∧ v = 0x00#8 then { m with cells := cellsDrop m.cells k }
  else { m with cells := cellsPut m.cells k v }

/-- Replace one store. -/
def State.setMemory (s : State) (id : StoreId) (m : Memory) : State :=
  match id with
  | .boot => { s with boot := m }
  | .rom => { s with rom := m }
  | .vram => { s with vram := m }
  | .eram => { s with eram := m }
  | .wram => { s with wram := m }
  | .oam => { s with oam := m }
  | .hram => { s with hram := m }

/-- Read byte `k` of the store `id`. -/
def State.peek (s : State) (id : StoreId) (k : Nat) : Byte := (s.memory id).read id k

/-- Write byte `k` of the store `id`. -/
def State.poke (s : State) (id : StoreId) (k : Nat) (v : Byte) : State :=
  s.setMemory id ((s.memory id).write k v)

/-! ### Events -/

/-- `emit E` (R9). -/
def State.emit (s : State) (e : Event) : State := { s with trace := s.trace ++ [e] }

/-- The byte a collaborator answers the next read event with: any byte (R241). -/
def State.answer (s : State) : Byte :=
  match s.answers with
  | v :: _ => v
  | [] => Config.freeAnswer s.draws

/-- Use up one answer. -/
def State.takeAnswer (s : State) : State := { s with answers := s.answers.tail, draws := s.draws + 1 }

/-- `v <- ask E` (R9): emit the read event and take the collaborator's byte. -/
def State.ask (s : State) (e : Byte → Event) : Byte × State := (s.answer, s.takeAnswer.emit (e s.answer))

/-! ### Byte read (41_byte_access.md R140 to R154) -/

/-- The read rule of a destination; `a` is the full address, which the display controller is given. -/
def readDest (d : Dest) (a : Addr) (s : State) : Byte × State :=
  match d with
  | .boot o => (s.peek .boot o.toNat, s)
  | .rom o => (s.peek .rom o.toNat, s)
  | .vram o => (s.peek .vram o.toNat, s)
  | .eram o => (s.peek .eram o.toNat, s)
  | .wram o => (s.peek .wram o.toNat, s)
  | .oam o => (s.peek .oam o.toNat, s)
  | .hram o => (s.peek .hram o.toNat, s)
  | .unusable => (0x00#8, s)
  | .iozero => (0x00#8, s)
  | .input => s.ask .inRd
  | .ifReg => s.ask .icGetIF
  | .ie => s.ask .icGetIE
  | .dma => s.ask (.dcRd a)
  | .dcreg => s.ask (.dcRd a)

/-- `ReadByte(a)` (R140). -/
def readByte (a : Addr) (s : State) : Byte × State := readDest (decodeAddr s.cfg s.ov a) a s

/-! ### The DMA transfer (42_dma_engine.md R190) -/

/-- One iteration: read `source + i`, store into `oam[i]` directly, then `SPRITE(0xFE00 + i, b)` (R190, R192). -/
def dmaStep (v : Byte) (i : Nat) (s : State) : State :=
  let r := readByte (dmaRead v i) s
  (r.2.poke .oam i r.1).emit (.sprite (dmaDest i) r.1)

/-- The first `n` iterations, ascending. -/
def dmaUpTo (v : Byte) : Nat → State → State
  | 0, s => s
  | n + 1, s => dmaStep v n (dmaUpTo v n s)

/-- `Dma(V)`: exactly 160 iterations (R190). -/
def dma (v : Byte) (s : State) : State := dmaUpTo v dmaLen s

/-! ### Byte write (41_byte_access.md R160 to R174) -/

/-- The write rule of a destination; `a` is the full address, which hooks and the display controller are given. -/
def writeDest (d : Dest) (a : Addr) (v : Byte) (s : State) : State :=
  match d with
  | .boot _ => s
  | .rom _ => s
  | .vram o =>
    if a < tileLimit then (s.poke .vram o.toNat v).emit (.tile a v) else s.poke .vram o.toNat v
  | .eram o => s.poke .eram o.toNat v
  | .wram o => s.poke .wram o.toNat v
  | .oam o => (s.poke .oam o.toNat v).emit (.sprite a v)
  | .hram o => s.poke .hram o.toNat v
  | .unusable => s
  | .iozero => s
  | .input => s.emit (.inWr v)
  | .ifReg => s.emit (.icSetIF v)
  | .ie => s.emit (.icSetIE v)
  | .dma => dma v s
  | .dcreg => s.emit (.dcWr a v)

/-- `WriteByte(a, v)` (R160). -/
def writeByte (a : Addr) (v : Byte) (s : State) : State := writeDest (decodeAddr s.cfg s.ov a) a v s

/-! ### Responses (30_encoding.md R83) -/

/-- The operation returns nothing. -/
def State.returnNothing (s : State) : State := { s with rsp := none }

/-- The operation returns the word `w`. -/
def State.returnWord (s : State) (w : Word) : State := { s with rsp := some w }

/-- A byte read's outcome: the byte, zero-extended, on the response port. -/
def returnByte (r : Byte × State) : State := r.2.returnWord (byteResult r.1)

end Sys2Proof.Machine
end

