-- ==== Sys2Proof/Machine/ByteRead.lean ====
section
/-! DEFINITION. `RDB` at every entry of R94 (41_byte_access.md R140 to R154). -/

namespace Sys2Proof.Machine

/-- `RDB` at IE, 0xFFFF (R154). -/
def execRdbIe (s : State) : Host.Outcome State Fault Refusal :=
  .next (returnByte (readDest .ie addrIe s))

/-- `RDB` at HRAM, 0xFF80 to 0xFFFE (R153). -/
def execRdbHram (a : Addr) (s : State) : Host.Outcome State Fault Refusal :=
  .next (returnByte (readDest (.hram (offsetHram a)) a s))

/-- `RDB` at INPUT, `ADDR_INPUT` (R148). -/
def execRdbInput (s : State) : Host.Outcome State Fault Refusal :=
  .next (returnByte (readDest .input s.cfg.addrInput s))

/-- `RDB` at IF, `ADDR_IF` (R149). -/
def execRdbIf (s : State) : Host.Outcome State Fault Refusal :=
  .next (returnByte (readDest .ifReg s.cfg.addrIf s))

/-- `RDB` at DMA, `ADDR_DMA` (R150). -/
def execRdbDma (s : State) : Host.Outcome State Fault Refusal :=
  .next (returnByte (readDest .dma s.cfg.addrDma s))

/-- `RDB` at DCREG, the display-controller blocks (R151). -/
def execRdbDcreg (a : Addr) (s : State) : Host.Outcome State Fault Refusal :=
  .next (returnByte (readDest .dcreg a s))

/-- `RDB` at IOZERO, undecoded I/O (R152). -/
def execRdbIozero (a : Addr) (s : State) : Host.Outcome State Fault Refusal :=
  .next (returnByte (readDest .iozero a s))

/-- `RDB` at OAM, 0xFE00 to 0xFE7F (R146). -/
def execRdbOamLo (a : Addr) (s : State) : Host.Outcome State Fault Refusal :=
  .next (returnByte (readDest (.oam (offsetPage a)) a s))

/-- `RDB` at OAM, 0xFE80 to 0xFE9F (R146). -/
def execRdbOamHi (a : Addr) (s : State) : Host.Outcome State Fault Refusal :=
  .next (returnByte (readDest (.oam (offsetPage a)) a s))

/-- `RDB` at UNUSABLE, 0xFEA0 to 0xFEFF (R147). -/
def execRdbUnusable (a : Addr) (s : State) : Host.Outcome State Fault Refusal :=
  .next (returnByte (readDest .unusable a s))

/-- `RDB` at WRAM, 0xC000 to 0xDFFF (R145). -/
def execRdbWram (a : Addr) (s : State) : Host.Outcome State Fault Refusal :=
  .next (returnByte (readDest (.wram (offset13 a)) a s))

/-- `RDB` at WRAM, 0xE000 to 0xFDFF (R145). -/
def execRdbWramMirror (a : Addr) (s : State) : Host.Outcome State Fault Refusal :=
  .next (returnByte (readDest (.wram (offset13 a)) a s))

/-- `RDB` at ERAM, 0xA000 to 0xBFFF (R144). -/
def execRdbEram (a : Addr) (s : State) : Host.Outcome State Fault Refusal :=
  .next (returnByte (readDest (.eram (offset13 a)) a s))

/-- `RDB` at VRAM, 0x8000 to 0x8FFF (R143). -/
def execRdbVramTileLo (a : Addr) (s : State) : Host.Outcome State Fault Refusal :=
  .next (returnByte (readDest (.vram (offset13 a)) a s))

/-- `RDB` at VRAM, 0x9000 to 0x97FF (R143). -/
def execRdbVramTileHi (a : Addr) (s : State) : Host.Outcome State Fault Refusal :=
  .next (returnByte (readDest (.vram (offset13 a)) a s))

/-- `RDB` at VRAM, 0x9800 to 0x9FFF (R143). -/
def execRdbVramMap (a : Addr) (s : State) : Host.Outcome State Fault Refusal :=
  .next (returnByte (readDest (.vram (offset13 a)) a s))

/-- `RDB` at BOOT, 0x0000 to 0x00FF while `ov = 1` (R141). The overlay flag still decides (R113, R114), so the meaning is the operation's at either value of `ov`. -/
def execRdbBoot (a : Addr) (s : State) : Host.Outcome State Fault Refusal :=
  .next (returnByte (readDest (imageWindowDest s.ov a) a s))

/-- `RDB` at ROM, 0x0000 to 0x7FFF (R142). The overlay flag still decides (R113, R114), so the meaning is the operation's at either value of `ov`. -/
def execRdbRom (a : Addr) (s : State) : Host.Outcome State Fault Refusal :=
  .next (returnByte (readDest (imageWindowDest s.ov a) a s))

end Sys2Proof.Machine
end

