-- ==== Sys2Proof/Machine/ByteWrite.lean ====
section
/-! DEFINITION. `WRB` at every entry of R94 (41_byte_access.md R160 to R174). -/

namespace Sys2Proof.Machine

/-- `WRB` at IE, 0xFFFF (R174). -/
def execWrbIe (v : Byte) (s : State) : Host.Outcome State Fault Refusal :=
  .next (writeDest .ie addrIe v s).returnNothing

/-- `WRB` at HRAM, 0xFF80 to 0xFFFE (R173). -/
def execWrbHram (a : Addr) (v : Byte) (s : State) : Host.Outcome State Fault Refusal :=
  .next (writeDest (.hram (offsetHram a)) a v s).returnNothing

/-- `WRB` at INPUT, `ADDR_INPUT` (R168). -/
def execWrbInput (v : Byte) (s : State) : Host.Outcome State Fault Refusal :=
  .next (writeDest .input s.cfg.addrInput v s).returnNothing

/-- `WRB` at IF, `ADDR_IF` (R169). -/
def execWrbIf (v : Byte) (s : State) : Host.Outcome State Fault Refusal :=
  .next (writeDest .ifReg s.cfg.addrIf v s).returnNothing

/-- `WRB` at DMA, `ADDR_DMA` (R170). -/
def execWrbDma (v : Byte) (s : State) : Host.Outcome State Fault Refusal :=
  .next (writeDest .dma s.cfg.addrDma v s).returnNothing

/-- `WRB` at DCREG, the display-controller blocks (R171). -/
def execWrbDcreg (a : Addr) (v : Byte) (s : State) : Host.Outcome State Fault Refusal :=
  .next (writeDest .dcreg a v s).returnNothing

/-- `WRB` at IOZERO, undecoded I/O (R172). -/
def execWrbIozero (a : Addr) (v : Byte) (s : State) : Host.Outcome State Fault Refusal :=
  .next (writeDest .iozero a v s).returnNothing

/-- `WRB` at OAM, 0xFE00 to 0xFE7F (R166). -/
def execWrbOamLo (a : Addr) (v : Byte) (s : State) : Host.Outcome State Fault Refusal :=
  .next (writeDest (.oam (offsetPage a)) a v s).returnNothing

/-- `WRB` at OAM, 0xFE80 to 0xFE9F (R166). -/
def execWrbOamHi (a : Addr) (v : Byte) (s : State) : Host.Outcome State Fault Refusal :=
  .next (writeDest (.oam (offsetPage a)) a v s).returnNothing

/-- `WRB` at UNUSABLE, 0xFEA0 to 0xFEFF (R167). -/
def execWrbUnusable (a : Addr) (v : Byte) (s : State) : Host.Outcome State Fault Refusal :=
  .next (writeDest .unusable a v s).returnNothing

/-- `WRB` at WRAM, 0xC000 to 0xDFFF (R165). -/
def execWrbWram (a : Addr) (v : Byte) (s : State) : Host.Outcome State Fault Refusal :=
  .next (writeDest (.wram (offset13 a)) a v s).returnNothing

/-- `WRB` at WRAM, 0xE000 to 0xFDFF (R165). -/
def execWrbWramMirror (a : Addr) (v : Byte) (s : State) : Host.Outcome State Fault Refusal :=
  .next (writeDest (.wram (offset13 a)) a v s).returnNothing

/-- `WRB` at ERAM, 0xA000 to 0xBFFF (R164). -/
def execWrbEram (a : Addr) (v : Byte) (s : State) : Host.Outcome State Fault Refusal :=
  .next (writeDest (.eram (offset13 a)) a v s).returnNothing

/-- `WRB` at VRAM, 0x8000 to 0x8FFF (R163). -/
def execWrbVramTileLo (a : Addr) (v : Byte) (s : State) : Host.Outcome State Fault Refusal :=
  .next (writeDest (.vram (offset13 a)) a v s).returnNothing

/-- `WRB` at VRAM, 0x9000 to 0x97FF (R163). -/
def execWrbVramTileHi (a : Addr) (v : Byte) (s : State) : Host.Outcome State Fault Refusal :=
  .next (writeDest (.vram (offset13 a)) a v s).returnNothing

/-- `WRB` at VRAM, 0x9800 to 0x9FFF (R163). -/
def execWrbVramMap (a : Addr) (v : Byte) (s : State) : Host.Outcome State Fault Refusal :=
  .next (writeDest (.vram (offset13 a)) a v s).returnNothing

/-- `WRB` at BOOT, 0x0000 to 0x00FF while `ov = 1` (R161). -/
def execWrbBoot (a : Addr) (v : Byte) (s : State) : Host.Outcome State Fault Refusal :=
  .next (writeDest (imageWindowDest s.ov a) a v s).returnNothing

/-- `WRB` at ROM, 0x0000 to 0x7FFF (R162). -/
def execWrbRom (a : Addr) (v : Byte) (s : State) : Host.Outcome State Fault Refusal :=
  .next (writeDest (imageWindowDest s.ov a) a v s).returnNothing

end Sys2Proof.Machine
end

