-- ==== Sys2Proof/Machine/Control.lean ====
section
/-! DEFINITION. `LOAD`, `RESET` and `BOOTOFF` (44_control_ops.md R210 to R212). -/

namespace Sys2Proof.Machine

/-- `rom <- img`, the whole of `rom` (R210). -/
def State.loadImage (s : State) : State := s.setMemory .rom s.img.memory

/-- `LOAD` (R210): refused for fewer than 0x8000 bytes (D17), else the image on the side port replaces `rom`. -/
def execLoad (s : State) : Host.Outcome State Fault Refusal :=
  if s.img.len < Config.romMinLen then .refused (.shortImage s.img.len)
  else .next s.loadImage.returnNothing

/-- The three RAM stores all zero (R211). -/
def State.zeroRam (s : State) : State :=
  ((s.setMemory .eram (.zeros Config.eramSize)).setMemory .wram (.zeros Config.wramSize)).setMemory .hram
    (.zeros Config.hramSize)

/-- `RESET` (R211): `ov <- 1` and the three RAM stores zero; no event, nothing else changed. -/
def execReset (s : State) : Host.Outcome State Fault Refusal := .next s.setOverlay.zeroRam.returnNothing

/-- `BOOTOFF` (R212): `ov <- 0`. -/
def execBootoff (s : State) : Host.Outcome State Fault Refusal := .next s.clearOverlay.returnNothing

end Sys2Proof.Machine
end

