-- ==== Sys2Proof/Machine/WordAccess.lean ====
section
/-! DEFINITION. `RDW` and `WRW`: two byte accesses each, every byte decoded on its own (43_word_access.md R200 to R203). -/

namespace Sys2Proof.Machine

/-- `RDW` with the low byte read first, the default order (R200, D14). -/
def readWordLowFirst (a : Addr) (s : State) : State :=
  let lo := readByte a s
  let hi := readByte (nextAddr a) lo.2
  hi.2.returnWord (wordOf hi.1 lo.1)

/-- `RDW` with the high byte read first (R200, D14). -/
def readWordHighFirst (a : Addr) (s : State) : State :=
  let hi := readByte (nextAddr a) s
  let lo := readByte a hi.2
  lo.2.returnWord (wordOf hi.1 lo.1)

/-- Use up one free draw. -/
def State.draw (s : State) : State := { s with draws := s.draws + 1 }

/-- `RDW a` in the order `RDW_ORDER` asks for; under `Either` a free value chooses at each word read (R200, D14). -/
def readWord (a : Addr) (s : State) : State :=
  match s.cfg.rdwOrder with
  | .lowFirst => readWordLowFirst a s
  | .highFirst => readWordHighFirst a s
  | .either =>
    if Config.freeLowFirst s.draws then readWordLowFirst a s.draw else readWordHighFirst a s.draw

/-- `WRW a, w`: low byte, then high byte (R201). -/
def writeWord (a : Addr) (w : Word) (s : State) : State :=
  writeByte (nextAddr a) (highByte w) (writeByte a (lowByte w) s)

/-- `RDW a` (R200). -/
def execRdw (a : Addr) (s : State) : Host.Outcome State Fault Refusal := .next (readWord a s)

/-- `WRW a, w` (R201). -/
def execWrw (a : Addr) (w : Word) (s : State) : Host.Outcome State Fault Refusal :=
  .next (writeWord a w s).returnNothing

end Sys2Proof.Machine
end

