-- ==== Sys2Proof/Machine/Dispatch.lean ====
section
/-! DEFINITION. The dispatch: one arm per operation, each a direct call of its meaning. -/

namespace Sys2Proof.Machine

def exec (i : Instr) (s : State) : Host.Outcome State Fault Refusal :=
  match i with
  | .rdbIe => Sys2Proof.Machine.execRdbIe s
  | .rdbHram a => Sys2Proof.Machine.execRdbHram a s
  | .rdbInput => Sys2Proof.Machine.execRdbInput s
  | .rdbIf => Sys2Proof.Machine.execRdbIf s
  | .rdbDma => Sys2Proof.Machine.execRdbDma s
  | .rdbDcreg a => Sys2Proof.Machine.execRdbDcreg a s
  | .rdbIozero a => Sys2Proof.Machine.execRdbIozero a s
  | .rdbOamLo a => Sys2Proof.Machine.execRdbOamLo a s
  | .rdbOamHi a => Sys2Proof.Machine.execRdbOamHi a s
  | .rdbUnusable a => Sys2Proof.Machine.execRdbUnusable a s
  | .rdbWram a => Sys2Proof.Machine.execRdbWram a s
  | .rdbWramMirror a => Sys2Proof.Machine.execRdbWramMirror a s
  | .rdbEram a => Sys2Proof.Machine.execRdbEram a s
  | .rdbVramTileLo a => Sys2Proof.Machine.execRdbVramTileLo a s
  | .rdbVramTileHi a => Sys2Proof.Machine.execRdbVramTileHi a s
  | .rdbVramMap a => Sys2Proof.Machine.execRdbVramMap a s
  | .rdbBoot a => Sys2Proof.Machine.execRdbBoot a s
  | .rdbRom a => Sys2Proof.Machine.execRdbRom a s
  | .wrbIe v => Sys2Proof.Machine.execWrbIe v s
  | .wrbHram a v => Sys2Proof.Machine.execWrbHram a v s
  | .wrbInput v => Sys2Proof.Machine.execWrbInput v s
  | .wrbIf v => Sys2Proof.Machine.execWrbIf v s
  | .wrbDma v => Sys2Proof.Machine.execWrbDma v s
  | .wrbDcreg a v => Sys2Proof.Machine.execWrbDcreg a v s
  | .wrbIozero a v => Sys2Proof.Machine.execWrbIozero a v s
  | .wrbOamLo a v => Sys2Proof.Machine.execWrbOamLo a v s
  | .wrbOamHi a v => Sys2Proof.Machine.execWrbOamHi a v s
  | .wrbUnusable a v => Sys2Proof.Machine.execWrbUnusable a v s
  | .wrbWram a v => Sys2Proof.Machine.execWrbWram a v s
  | .wrbWramMirror a v => Sys2Proof.Machine.execWrbWramMirror a v s
  | .wrbEram a v => Sys2Proof.Machine.execWrbEram a v s
  | .wrbVramTileLo a v => Sys2Proof.Machine.execWrbVramTileLo a v s
  | .wrbVramTileHi a v => Sys2Proof.Machine.execWrbVramTileHi a v s
  | .wrbVramMap a v => Sys2Proof.Machine.execWrbVramMap a v s
  | .wrbBoot a v => Sys2Proof.Machine.execWrbBoot a v s
  | .wrbRom a v => Sys2Proof.Machine.execWrbRom a v s
  | .rdw a => Sys2Proof.Machine.execRdw a s
  | .wrw a w => Sys2Proof.Machine.execWrw a w s
  | .load => Sys2Proof.Machine.execLoad s
  | .reset => Sys2Proof.Machine.execReset s
  | .bootoff => Sys2Proof.Machine.execBootoff s

end Sys2Proof.Machine
end

