-- ==== Sys2Proof/Machine/Step.lean ====
section
/-! DEFINITION. One step: the operation on the requester port, executed whole (00_scope.md R6; 20_memory.md R56, R62). -/

namespace Sys2Proof.Machine

/-- The state in which the first request is being executed: it has left the requester's list, and its image is on the
side port. -/
def State.issue (s : State) (r : Request) (rest : List Request) : State := { s with requests := rest, img := r.img }

/-- The refusal a decoding error stands for. -/
def refusalOf : DecodeError → Refusal
  | .reservedCommand c => .reservedCommand c
  | .unclassified a => .unclassified a

/-- One step. With no request on the port the router does nothing (R30: each operation is started by the requester;
log 27). A word the decoder rejects is refused before it starts (R88, R234). -/
def step (s : State) : Host.Outcome State Fault Refusal :=
  match s.requests with
  | [] => .next s
  | r :: rest =>
    match decode s.cfg s.ov r.word with
    | .ok i => exec i (s.issue r rest)
    | .error e => .refused (refusalOf e)

/-- The image `withFetchWord` drives on the side port: 0x8000 zero bytes, the shortest image `LOAD` takes (log 27). -/
def fetchImage : Image := ⟨Config.romMinLen, []⟩

/-- `s` with the operation word `w` (its low `nbits` bits, the bits above zero) on the requester port, in place of the
request that was there; a `LOAD` needs an image on the side port, so one is given (log 27). -/
def State.withFetchWord (s : State) (nbits w : Nat) : State :=
  { s with requests := ⟨opWordOf nbits w, fetchImage⟩ :: s.requests.tail }

end Sys2Proof.Machine
end

