-- ==== Sys2Proof/Safety.lean ====
section
/-! DEFINITION. What claims mean by a good state, an unchanged router, one stored byte, and a read event (10_state.md R20,
R39; 20_memory.md R57). -/

namespace Sys2Proof.Machine

/-- An image on the side port is given in the canonical form of a store. -/
def Image.wf (img : Image) : Bool := img.memory.wf

/-- Byte `k` of an image (R210). -/
def Image.byte (img : Image) (k : Nat) : Byte := (cellsGet img.cells k).getD 0x00#8

/-- R39 and the canonical form of the stores: the sizes of the fixed stores, `rom` of at least 0x8000 bytes, the three
RAM stores zero where they list nothing, every store canonical. -/
structure State.StoresGood (s : State) : Prop where
  bootSize : s.boot.size = Config.bootSize
  romSize : Config.romMinLen ≤ s.rom.size
  vramSize : s.vram.size = Config.vramSize
  eramSize : s.eram.size = Config.eramSize
  wramSize : s.wram.size = Config.wramSize
  oamSize : s.oam.size = Config.oamSize
  hramSize : s.hram.size = Config.hramSize
  eramBlank : s.eram.blank = .zero
  wramBlank : s.wram.blank = .zero
  hramBlank : s.hram.blank = .zero
  canonical : ∀ id, (s.memory id).wf = true

/-- The invariant every step keeps: admissible parameters (R7), good stores, and canonical images on the side port and
in the requests (a premise about how the requester writes an image down, log 36). -/
structure State.Inv (s : State) : Prop where
  cfg : s.cfg.wf = true
  stores : s.StoresGood
  img : s.img.wf = true
  requests : ∀ r ∈ s.requests, r.img.wf = true

/-- Nothing of the router itself differs: the eight entities of R20, the parameters, and what stands on the input ports.
(The response, the trace and the collaborators' answers may differ.) -/
structure State.SameRouter (s t : State) : Prop where
  ov : t.ov = s.ov
  stores : ∀ id, t.memory id = s.memory id
  cfg : t.cfg = s.cfg
  requests : t.requests = s.requests
  img : t.img = s.img

/-- `t` is `s` with byte `k` of the store `id` set to `v`, as every read of every store sees it, and nothing else of the
router changed and no collaborator asked. (The response and the trace may differ.) -/
structure State.StoredOne (s t : State) (id : StoreId) (k : Nat) (v : Byte) : Prop where
  bytes : ∀ j n, t.peek j n = if j = id ∧ n = k then v else s.peek j n
  sizes : ∀ j, (t.memory j).size = (s.memory j).size
  ov : t.ov = s.ov
  cfg : t.cfg = s.cfg
  requests : t.requests = s.requests
  img : t.img = s.img
  answers : t.answers = s.answers
  draws : t.draws = s.draws

/-- The four events that return a byte (R10). -/
def Event.isRead : Event → Bool
  | .dcRd _ _ => true
  | .icGetIE _ => true
  | .icGetIF _ => true
  | .inRd _ => true
  | .tile _ _ => false
  | .sprite _ _ => false
  | .dcWr _ _ => false
  | .icSetIE _ => false
  | .icSetIF _ => false
  | .inWr _ => false

end Sys2Proof.Machine
end

