-- ==== Sys2Proof/Certificates/Slice0/Obligations.lean ====
section
/-! DEFINITION. The statements for the provers. Each docstring names the rule of spec/ it formalises; a statement that
rests on a choice of the model names the log entry. -/

open Sys2Proof Sys2Proof.Machine

/-! ### Words, decoding, encoding -/

/-- Words written out from R81, R82 and R94 decode to their rows (with the default parameters, log 5 to 8, 33):
`00 FFFE 0000`, `01 FF46 00C0`, `02 FF80 0000`, `03 FF80 1234`, `04 0000 0000`, `05 0000 0000`, `06 0000 0000`. -/
def Obligations.WordsWrittenOutDecodeToTheirRows : Prop :=
  decodeTableWord 40 0x00FFFE0000 = some (.rdbHram 0xFFFE#16) ∧
  decodeTableWord 40 0x01FF4600C0 = some (.wrbDma 0xC0#8) ∧
  decodeTableWord 40 0x02FF800000 = some (.rdw 0xFF80#16) ∧
  decodeTableWord 40 0x03FF801234 = some (.wrw 0xFF80#16 0x1234#16) ∧
  decodeTableWord 40 0x0400000000 = some .load ∧
  decodeTableWord 40 0x0500000000 = some .reset ∧
  decodeTableWord 40 0x0600000000 = some .bootoff

/-- R81, R82, R94 (the spec's decisions D2, D4; log 2, 4; for parameters other than the defaults log 35): for every
admissible choice of the parameters and either value of the overlay flag, decoding the word of a well-formed operation
gives the operation back, with every operand. -/
def Obligations.DecodeOfEncodeIsTheOperation : Prop :=
  ∀ (c : Config) (ov : Bool) (i : Instr), c.wf = true → i.wellFormed c ov = true → decode c ov (encode c i) = .ok i

/-- R81, R82 (the spec's decisions D2, D4; log 2, 4; for parameters other than the defaults log 35): what a decoded
operation keeps of its word: the command code, the address of the four memory operations, the byte of a `WRB`, the word
of a `WRW`. -/
def Obligations.EncodeOfDecodeKeepsTheUsedFields : Prop :=
  ∀ (c : Config) (ov : Bool) (w : OpWord) (i : Instr), c.wf = true → decode c ov w = .ok i →
    opCmd (encode c i) = opCmd w ∧
    ((opCmd w).toNat < 4 → opAddr (encode c i) = opAddr w) ∧
    (opCmd w = 0x01#8 → (opData (encode c i)).extractLsb' 0 8 = (opData w).extractLsb' 0 8) ∧
    (opCmd w = 0x03#8 → opData (encode c i) = opData w)

/-- R88 (the spec's decision D3, log 3): the codes 0x07 to 0xFF, and only they, are refused; R94, R129: every other
word, whatever its unused bits (D4, log 4) and for every admissible choice of the parameters (log 35), is a well-formed
operation of the table. -/
def Obligations.DecoderRejectsExactlyTheReservedCodes : Prop :=
  ∀ (c : Config) (ov : Bool) (w : OpWord), c.wf = true →
    (7 ≤ (opCmd w).toNat → decode c ov w = .error (.reservedCommand (opCmd w))) ∧
    ((opCmd w).toNat < 7 → ∃ i, decode c ov w = .ok i ∧ i.wellFormed c ov = true)

/-- R90, R82 (the spec's decision D4, log 4): the data field of a read, `data[15:8]` of a byte write, and both fields of
`LOAD`, `RESET` and `BOOTOFF` are ignored. -/
def Obligations.UnusedFieldsAreIgnored : Prop :=
  ∀ (c : Config) (ov : Bool) (w x : OpWord), opCmd w = opCmd x →
    ((opCmd w = 0x00#8 ∨ opCmd w = 0x02#8) → opAddr w = opAddr x → decode c ov w = decode c ov x) ∧
    (opCmd w = 0x01#8 → opAddr w = opAddr x → (opData w).extractLsb' 0 8 = (opData x).extractLsb' 0 8 →
      decode c ov w = decode c ov x) ∧
    ((opCmd w = 0x04#8 ∨ opCmd w = 0x05#8 ∨ opCmd w = 0x06#8) → decode c ov w = decode c ov x)

/-- R94, R129: the ordered list of (mask, match) pairs finds exactly one entry for every address and either value of
`ov`, the one whose window holds the address, and its destination is the one of R130. R94 gives its list for the default
parameters; that rows 3 to 6 follow every other admissible choice is the model's inference (DEDUCED, log 35). -/
def Obligations.OperationMapAgreesWithTheAddressDecoder : Prop :=
  ∀ (c : Config) (ov : Bool) (a : Addr), c.wf = true →
    ∃ e, findEntry c ov a = some e ∧ (∀ e', e'.admits c ov a = true ↔ e' = e) ∧
      entryDest ov e a = decodeAddr c ov a ∧ entryAddr c e a = a

/-! ### The address decoder -/

/-- R113 to R120, R127, R128: the destination of every address outside the reserved I/O page, by its window. -/
def Obligations.DecoderWindowsOutsideTheIoPage : Prop :=
  ∀ (c : Config) (ov : Bool) (a : Addr),
    (ov = true → a.toNat ≤ 0x00FF → decodeAddr c ov a = .boot (a &&& 0x00FF#16)) ∧
    (a.toNat ≤ 0x7FFF → ¬ (ov = true ∧ a.toNat ≤ 0x00FF) → decodeAddr c ov a = .rom a) ∧
    (0x8000 ≤ a.toNat → a.toNat ≤ 0x9FFF → decodeAddr c ov a = .vram (a &&& 0x1FFF#16)) ∧
    (0xA000 ≤ a.toNat → a.toNat ≤ 0xBFFF → decodeAddr c ov a = .eram (a &&& 0x1FFF#16)) ∧
    (0xC000 ≤ a.toNat → a.toNat ≤ 0xDFFF → decodeAddr c ov a = .wram (a &&& 0x1FFF#16)) ∧
    (0xE000 ≤ a.toNat → a.toNat ≤ 0xFDFF →
      decodeAddr c ov a = .wram (a &&& 0x1FFF#16) ∧ decodeAddr c ov a = decodeAddr c ov (a - 0x2000#16)) ∧
    (0xFE00 ≤ a.toNat → a.toNat ≤ 0xFE9F → decodeAddr c ov a = .oam (a &&& 0x00FF#16)) ∧
    (0xFEA0 ≤ a.toNat → a.toNat ≤ 0xFEFF → decodeAddr c ov a = .unusable) ∧
    (0xFF80 ≤ a.toNat → a.toNat ≤ 0xFFFE → decodeAddr c ov a = .hram (a &&& 0x007F#16)) ∧
    (a = 0xFFFF#16 → decodeAddr c ov a = .ie)

/-- R121, R126: how the page 0xFF00 to 0xFFFF is split, for every admissible choice of the parameters: IE, then high
RAM, then the named registers, then the display controller's blocks, and nothing else has anything behind it. -/
def Obligations.DecoderInsideTheTopPage : Prop :=
  ∀ (c : Config) (ov : Bool) (a : Addr), c.wf = true → 0xFF00 ≤ a.toNat →
    (decodeAddr c ov a = .ie ↔ a = 0xFFFF#16) ∧
    (decodeAddr c ov a = .hram (a &&& 0x007F#16) ↔ 0xFF80 ≤ a.toNat ∧ a ≠ 0xFFFF#16) ∧
    (decodeAddr c ov a = .input ↔ a = c.addrInput) ∧
    (decodeAddr c ov a = .ifReg ↔ a = c.addrIf) ∧
    (decodeAddr c ov a = .dma ↔ a = c.addrDma) ∧
    (decodeAddr c ov a = .dcreg ↔ a.toNat ≤ 0xFF7F ∧
      (a ≠ c.addrInput ∧ a ≠ c.addrIf ∧ a ≠ c.addrDma) ∧ a.extractLsb' 4 4 ∈ c.dcBlocks) ∧
    (decodeAddr c ov a = .iozero ↔ a.toNat ≤ 0xFF7F ∧
      (a ≠ c.addrInput ∧ a ≠ c.addrIf ∧ a ≠ c.addrDma) ∧ a.extractLsb' 4 4 ∉ c.dcBlocks)

/-- The I/O page with the default parameters (PRESUMED, log 5 to 8), as the address map of 20_memory.md section 1 lists
it. -/
def Obligations.DefaultIoPageMap : Prop :=
  ∀ (ov : Bool) (a : Addr), 0xFF00 ≤ a.toNat → a.toNat ≤ 0xFF7F →
    decodeAddr Config.default ov a =
      if a.toNat = 0xFF00 then .input
      else if a.toNat = 0xFF0F then .ifReg
      else if a.toNat < 0xFF40 then .iozero
      else if a.toNat = 0xFF46 then .dma
      else .dcreg

/-- R91: the overlay flag changes the decoding of the addresses 0x0000 to 0x00FF and of no other. -/
def Obligations.OverlayChangesOnlyTheFirstPage : Prop :=
  ∀ (c : Config) (a : Addr), decodeAddr c true a ≠ decodeAddr c false a ↔ a.toNat ≤ 0x00FF

/-! ### Byte reads -/

/-- R141 to R144, R146, R153, and the read of R145: `RDB` at a store returns the stored byte, zero-extended, and changes
nothing. -/
def Obligations.RdbOfAStoreReturnsTheStoredByte : Prop :=
  ∀ (a : Addr) (s : State),
    (s.ov = true → a.toNat ≤ 0x00FF →
      exec (.rdbBoot a) s = .next { s with rsp := some (0x00#8 ++ s.peek .boot (a &&& 0x00FF#16).toNat) }) ∧
    (a.toNat ≤ 0x7FFF → ¬ (s.ov = true ∧ a.toNat ≤ 0x00FF) →
      exec (.rdbRom a) s = .next { s with rsp := some (0x00#8 ++ s.peek .rom a.toNat) }) ∧
    exec (.rdbVramTileLo a) s = .next { s with rsp := some (0x00#8 ++ s.peek .vram (a &&& 0x1FFF#16).toNat) } ∧
    exec (.rdbVramTileHi a) s = .next { s with rsp := some (0x00#8 ++ s.peek .vram (a &&& 0x1FFF#16).toNat) } ∧
    exec (.rdbVramMap a) s = .next { s with rsp := some (0x00#8 ++ s.peek .vram (a &&& 0x1FFF#16).toNat) } ∧
    exec (.rdbEram a) s = .next { s with rsp := some (0x00#8 ++ s.peek .eram (a &&& 0x1FFF#16).toNat) } ∧
    exec (.rdbWram a) s = .next { s with rsp := some (0x00#8 ++ s.peek .wram (a &&& 0x1FFF#16).toNat) } ∧
    exec (.rdbWramMirror a) s = .next { s with rsp := some (0x00#8 ++ s.peek .wram (a &&& 0x1FFF#16).toNat) } ∧
    exec (.rdbOamLo a) s = .next { s with rsp := some (0x00#8 ++ s.peek .oam (a &&& 0x00FF#16).toNat) } ∧
    exec (.rdbOamHi a) s = .next { s with rsp := some (0x00#8 ++ s.peek .oam (a &&& 0x00FF#16).toNat) } ∧
    exec (.rdbHram a) s = .next { s with rsp := some (0x00#8 ++ s.peek .hram (a &&& 0x007F#16).toNat) }

/-- R147, R152: `RDB` of the unusable window and of undecoded I/O returns 0x00 and changes nothing. -/
def Obligations.RdbOfStoragelessSpaceReturnsZero : Prop :=
  ∀ (a : Addr) (s : State),
    exec (.rdbUnusable a) s = .next { s with rsp := some 0x0000#16 } ∧
    exec (.rdbIozero a) s = .next { s with rsp := some 0x0000#16 }

/-- R148, R149, R151, R154: `RDB` at a collaborator's register returns the collaborator's byte, whatever it is, emits
exactly the one read event, and changes nothing of the router. -/
def Obligations.RdbOfACollaboratorIsOneReadEvent : Prop :=
  ∀ (a : Addr) (s : State),
    (∃ t v, exec .rdbInput s = .next t ∧ t.rsp = some (0x00#8 ++ v) ∧ t.trace = s.trace ++ [.inRd v] ∧ s.SameRouter t) ∧
    (∃ t v, exec .rdbIf s = .next t ∧ t.rsp = some (0x00#8 ++ v) ∧ t.trace = s.trace ++ [.icGetIF v] ∧ s.SameRouter t) ∧
    (∃ t v, exec (.rdbDcreg a) s = .next t ∧ t.rsp = some (0x00#8 ++ v) ∧ t.trace = s.trace ++ [.dcRd a v] ∧
      s.SameRouter t) ∧
    (∃ t v, exec .rdbIe s = .next t ∧ t.rsp = some (0x00#8 ++ v) ∧ t.trace = s.trace ++ [.icGetIE v] ∧ s.SameRouter t)

/-- R150: `RDB` at the DMA trigger asks the display controller with the trigger's address and starts no transfer (the
spec's decision D9, log 9). -/
def Obligations.RdbOfTheDmaTriggerAsksTheDisplayController : Prop :=
  ∀ (s : State), ∃ t v, exec .rdbDma s = .next t ∧ t.rsp = some (0x00#8 ++ v) ∧
    t.trace = s.trace ++ [.dcRd s.cfg.addrDma v] ∧ s.SameRouter t

/-- The five collaborator reads of the row list (R148 to R151, R154), for the next statement. -/
def Sys2Proof.Claims.collaboratorReads (a : Addr) : List Instr := [.rdbInput, .rdbIf, .rdbDma, .rdbDcreg a, .rdbIe]

/-- R241 as this model carries it (log 20): the byte a collaborator answers is the next one lined up in `answers`, which
is used up; with none lined up it is the free value of the next draw. For every byte there is such a state. -/
def Obligations.ReadEventsTakeTheLinedUpAnswer : Prop :=
  ∀ (a : Addr) (s : State), ∀ i ∈ Sys2Proof.Claims.collaboratorReads a, ∃ t, exec i s = .next t ∧
    (∀ v rest, s.answers = v :: rest → t.rsp = some (0x00#8 ++ v) ∧ t.answers = rest) ∧
    (s.answers = [] → t.rsp = some (0x00#8 ++ Config.freeAnswer s.draws) ∧ t.answers = []) ∧
    t.draws = s.draws + 1

/-- In the image window the rows `RDB.BOOT` and `RDB.ROM` are one operation: whichever names it, the overlay flag
decides what is read (the model's choice, log 33; R94: the rows are not separate operations). -/
def Obligations.ImageWindowRowsAreOneOperation : Prop :=
  ∀ (a : Addr) (s : State),
    exec (.rdbBoot a) s = exec (.rdbRom a) s ∧
    (s.ov = false → exec (.rdbBoot a) s = .next { s with rsp := some (0x00#8 ++ s.peek .rom (a &&& 0x7FFF#16).toNat) }) ∧
    (s.ov = true → a.toNat ≤ 0x00FF → exec (.rdbRom a) s = .next { s with rsp := some (0x00#8 ++ s.peek .boot a.toNat) })

/-! ### Byte writes -/

/-- R164, R173, and the write of R165: `WRB` at cartridge RAM, work RAM (either window) and high RAM stores the byte,
changes no other byte of any store, and emits nothing. -/
def Obligations.WrbOfARamStoresOneByte : Prop :=
  ∀ (a : Addr) (v : Byte) (s : State),
    (∃ t, exec (.wrbEram a v) s = .next t ∧ s.StoredOne t .eram (a &&& 0x1FFF#16).toNat v ∧ t.trace = s.trace) ∧
    (∃ t, exec (.wrbWram a v) s = .next t ∧ s.StoredOne t .wram (a &&& 0x1FFF#16).toNat v ∧ t.trace = s.trace) ∧
    (∃ t, exec (.wrbWramMirror a v) s = .next t ∧ s.StoredOne t .wram (a &&& 0x1FFF#16).toNat v ∧ t.trace = s.trace) ∧
    (∃ t, exec (.wrbHram a v) s = .next t ∧ s.StoredOne t .hram (a &&& 0x007F#16).toNat v ∧ t.trace = s.trace)

/-- R163, R166 (the spec's decisions D11, D12; log 11, 12): `WRB` at video RAM stores the byte and fires the tile hook
exactly for addresses below 0x9800; `WRB` at the sprite table stores the byte and fires the sprite hook; hooks get the
full address. -/
def Obligations.WrbOfASharedStoreFiresItsHook : Prop :=
  ∀ (a : Addr) (v : Byte) (s : State),
    (∀ i ∈ [Instr.wrbVramTileLo a v, .wrbVramTileHi a v, .wrbVramMap a v],
      ∃ t, exec i s = .next t ∧ s.StoredOne t .vram (a &&& 0x1FFF#16).toNat v ∧
        t.trace = if a.toNat < 0x9800 then s.trace ++ [.tile a v] else s.trace) ∧
    (∀ i ∈ [Instr.wrbOamLo a v, .wrbOamHi a v],
      ∃ t, exec i s = .next t ∧ s.StoredOne t .oam (a &&& 0x00FF#16).toNat v ∧ t.trace = s.trace ++ [.sprite a v])

/-- R161, R162, R167, R172: `WRB` at the boot overlay, the program image, the unusable window and undecoded I/O has no
effect at all (the response port is not meaningful after a write, R83). -/
def Obligations.WrbOfReadOnlySpaceHasNoEffect : Prop :=
  ∀ (a : Addr) (v : Byte) (s : State),
    (∃ r, exec (.wrbBoot a v) s = .next { s with rsp := r }) ∧
    (∃ r, exec (.wrbRom a v) s = .next { s with rsp := r }) ∧
    (∃ r, exec (.wrbUnusable a v) s = .next { s with rsp := r }) ∧
    (∃ r, exec (.wrbIozero a v) s = .next { s with rsp := r })

/-- R168, R169, R171, R174: `WRB` at a collaborator's register is exactly one write event; the router is unchanged. -/
def Obligations.WrbOfACollaboratorIsOneWriteEvent : Prop :=
  ∀ (a : Addr) (v : Byte) (s : State),
    (∃ r, exec (.wrbInput v) s = .next { s with trace := s.trace ++ [.inWr v], rsp := r }) ∧
    (∃ r, exec (.wrbIf v) s = .next { s with trace := s.trace ++ [.icSetIF v], rsp := r }) ∧
    (∃ r, exec (.wrbDcreg a v) s = .next { s with trace := s.trace ++ [.dcWr a v], rsp := r }) ∧
    (∃ r, exec (.wrbIe v) s = .next { s with trace := s.trace ++ [.icSetIE v], rsp := r })

/-- R83 as this model carries it (log 22): an operation that returns nothing leaves the response port at `none`. -/
def Obligations.OperationsWithoutAResultReturnNothing : Prop :=
  ∀ (i : Instr) (c : Config) (s t : State), opCmd (encode c i) ∉ [0x00#8, 0x02#8] → exec i s = .next t → t.rsp = none

/-! ### The DMA transfer -/

/-- R190, R192 (the spec's decisions D10, D13; log 10, 13): `Dma(V)` is exactly 160 iterations in ascending order, each
a byte read at `(V << 8) + i`, then the store into `oam[i]`, then `SPRITE(0xFE00 + i, b)`. -/
def Obligations.DmaRunsExactly160IterationsInOrder : Prop :=
  ∀ (v : Byte) (s : State), ∃ (run : Nat → State) (r : Option Word), run 0 = s ∧
    (∀ i, i < 160 →
      let b := (readByte ((v ++ 0x00#8) + BitVec.ofNat 16 i) (run i)).1
      let after := (readByte ((v ++ 0x00#8) + BitVec.ofNat 16 i) (run i)).2
      run (i + 1) = (after.poke .oam i b).emit (.sprite (0xFE00#16 + BitVec.ofNat 16 i) b)) ∧
    exec (.wrbDma v) s = .next { run 160 with rsp := r }

/-- The byte R195 says a transfer from page `v`, below the I/O page, copies to `oam[i]`. -/
def Sys2Proof.Claims.pageByte (v : Byte) (s : State) (i : Nat) : Byte :=
  if v.toNat < 0x80 then
    if v.toNat = 0 ∧ s.ov = true then s.peek .boot i else s.peek .rom (v.toNat * 256 + i)
  else if v.toNat < 0xA0 then s.peek .vram ((v.toNat * 256 + i) % 8192)
  else if v.toNat < 0xC0 then s.peek .eram ((v.toNat * 256 + i) % 8192)
  else if v.toNat < 0xFE then s.peek .wram ((v.toNat * 256 + i) % 8192)
  else s.peek .oam i

/-- R190, R195 (the order of store and event is the spec's decision D13, log 13; that the trigger's write is not also a
`DC_WR` is its decision D10, log 10): a transfer from any page but the I/O page copies the page's first 160 bytes, as
they were before it, to the sprite table, emits the 160 `SPRITE` events in ascending order and nothing else, asks no
collaborator, and changes no other store. With `V = 0xFE` the sprite table is its own source. -/
def Obligations.DmaCopiesTheSourcePage : Prop :=
  ∀ (v : Byte) (s : State), v ≠ 0xFF#8 → ∃ t, exec (.wrbDma v) s = .next t ∧
    (∀ i, t.peek .oam i = if i < 160 then Sys2Proof.Claims.pageByte v s i else s.peek .oam i) ∧
    t.trace = s.trace ++
      (List.range 160).map (fun i => .sprite (0xFE00#16 + BitVec.ofNat 16 i) (Sys2Proof.Claims.pageByte v s i)) ∧
    (∀ id, id ≠ .oam → t.memory id = s.memory id) ∧ t.ov = s.ov ∧ t.cfg = s.cfg ∧ t.requests = s.requests ∧
    t.img = s.img ∧ t.answers = s.answers ∧ t.draws = s.draws

/-- The `k`-th answer from now: the lined-up one, or the free value of that draw (log 20). -/
def Sys2Proof.Claims.nthAnswer (s : State) (k : Nat) : Byte :=
  match s.answers[k]? with
  | some v => v
  | none => Config.freeAnswer (s.draws + k)

/-- The byte R195 says a transfer from the I/O page copies to `oam[i]`, with the default parameters. -/
def Sys2Proof.Claims.ioPageByte (s : State) (i : Nat) : Byte :=
  if i = 0x00 then Sys2Proof.Claims.nthAnswer s 0
  else if i = 0x0F then Sys2Proof.Claims.nthAnswer s 1
  else if i < 0x40 then 0x00#8
  else if i < 0x80 then Sys2Proof.Claims.nthAnswer s (i - 0x3E)
  else s.peek .hram (i - 0x80)

/-- The read event of iteration `i` of that transfer, if there is one. -/
def Sys2Proof.Claims.ioPageReads (s : State) (i : Nat) : List Event :=
  if i = 0x00 then [.inRd (Sys2Proof.Claims.nthAnswer s 0)]
  else if i = 0x0F then [.icGetIF (Sys2Proof.Claims.nthAnswer s 1)]
  else if 0x40 ≤ i ∧ i < 0x80 then
    [.dcRd (0xFF00#16 + BitVec.ofNat 16 i) (Sys2Proof.Claims.nthAnswer s (i - 0x3E))]
  else []

/-- R195 last row, R196, R257 (the read at index 0x46 is `DC_RD` by the spec's decision D9, log 9; that the trigger's
write is not also a `DC_WR` is D10, log 10; read, store, event in this order is D13, log 13; the answers are the
model's, log 20): a transfer from the I/O page, with the default parameters (log 5 to 8), asks the input device, the
interrupt controller and 64 display-controller registers, each just before the `SPRITE` of the same index, reads high
RAM above them, emits 226 events in all and starts no second transfer. -/
def Obligations.DmaFromTheIoPageAsks66Registers : Prop :=
  ∀ (s : State), s.cfg = Config.default → ∃ t, exec (.wrbDma 0xFF#8) s = .next t ∧
    (∀ i, t.peek .oam i = if i < 160 then Sys2Proof.Claims.ioPageByte s i else s.peek .oam i) ∧
    t.trace = s.trace ++ (List.range 160).flatMap (fun i =>
      Sys2Proof.Claims.ioPageReads s i ++ [.sprite (0xFE00#16 + BitVec.ofNat 16 i) (Sys2Proof.Claims.ioPageByte s i)]) ∧
    t.trace.length = s.trace.length + 226 ∧
    (∀ id, id ≠ .oam → t.memory id = s.memory id) ∧ t.ov = s.ov ∧ t.cfg = s.cfg ∧ t.requests = s.requests ∧
    t.img = s.img ∧ t.answers = s.answers.drop 66 ∧ t.draws = s.draws + 66

/-! ### Word accesses -/

/-- R200, D14: `RDW` is two byte reads, every one decoded on its own, in the order the parameter `RDW_ORDER` asks for;
under `Either` it is one of the two orders (log 14: a free draw chooses). -/
def Obligations.RdwIsTwoByteReads : Prop :=
  ∀ (a : Addr) (s : State), ∃ t, exec (.rdw a) s = .next t ∧
    (let low (u : State) : State :=
        let lo := readByte a u
        let hi := readByte (a + 1#16) lo.2
        { hi.2 with rsp := some (hi.1 ++ lo.1) }
     let high (u : State) : State :=
        let hi := readByte (a + 1#16) u
        let lo := readByte a hi.2
        { lo.2 with rsp := some (hi.1 ++ lo.1) }
     (s.cfg.rdwOrder = .lowFirst → t = low s) ∧
     (s.cfg.rdwOrder = .highFirst → t = high s) ∧
     (s.cfg.rdwOrder = .either → t = low { s with draws := s.draws + 1 } ∨ t = high { s with draws := s.draws + 1 }))

/-- R201: `WRW` writes the low byte at `a`, then the high byte at `(a + 1) mod 0x10000`, and that is all. -/
def Obligations.WrwIsTwoByteWritesLowThenHigh : Prop :=
  ∀ (a : Addr) (w : Word) (s : State), ∃ r, exec (.wrw a w) s = .next
    { writeByte (a + 1#16) (w.extractLsb' 8 8) (writeByte a (w.extractLsb' 0 8) s) with rsp := r }

/-- R93 (the order of the two reads of `RDW` is the spec's decision D14, log 14): a `WRW` step leaves exactly the state
that two `WRB` steps leave, and an `RDW` step (low byte first) exactly the state, but for the response, that two `RDB`
steps leave, with the word made of their two bytes. -/
def Obligations.WordOperationsAreTwoByteOperations : Prop :=
  ∀ (a : Addr) (w : Word) (img : Image) (s : State), s.cfg.wf = true →
    (∃ (t u : State),
      step { s with requests := [⟨opWord 0x03#8 a w, img⟩] } = .next t ∧
      step { s with requests :=
        [⟨opWord 0x01#8 a (0x00#8 ++ w.extractLsb' 0 8), img⟩,
         ⟨opWord 0x01#8 (a + 1#16) (0x00#8 ++ w.extractLsb' 8 8), img⟩] } = .next u ∧
      step u = .next t) ∧
    (s.cfg.rdwOrder = .lowFirst → ∃ (t u v : State) (lo hi : Byte),
      step { s with requests := [⟨opWord 0x02#8 a 0x0000#16, img⟩] } = .next t ∧
      step { s with requests :=
        [⟨opWord 0x00#8 a 0x0000#16, img⟩, ⟨opWord 0x00#8 (a + 1#16) 0x0000#16, img⟩] } = .next u ∧
      step u = .next v ∧
      u.rsp = some (0x00#8 ++ lo) ∧ v.rsp = some (0x00#8 ++ hi) ∧ t = { v with rsp := some (hi ++ lo) })

/-- R200, C9: with the default parameters (log 5 to 8) the order of the two reads shows only for `a` in 0xFF40 to
0xFF7E. -/
def Obligations.RdwOrderShowsOnlyInsideTheRegisterBlocks : Prop :=
  ∀ (a : Addr) (s : State), s.cfg = Config.default → ¬ (0xFF40 ≤ a.toNat ∧ a.toNat ≤ 0xFF7E) →
    readWordLowFirst a s = readWordHighFirst a s

/-- R202's example: a word at 0x7FFF is program image below and video RAM above. -/
def Obligations.WordAtTheEndOfTheImageStraddles : Prop :=
  ∀ (w : Word) (s : State),
    (∃ t, exec (.wrw 0x7FFF#16 w) s = .next t ∧ s.StoredOne t .vram 0 (w.extractLsb' 8 8) ∧
      t.trace = s.trace ++ [.tile 0x8000#16 (w.extractLsb' 8 8)]) ∧
    (∃ t, exec (.rdw 0x7FFF#16) s = .next t ∧ t.rsp = some (s.peek .vram 0 ++ s.peek .rom 0x7FFF) ∧ s.SameRouter t ∧
      t.trace = s.trace)

/-- R203: a word at 0xFFFF has its second byte at 0x0000. -/
def Obligations.WordAtTheTopOfTheAddressSpaceWraps : Prop :=
  ∀ (w : Word) (s : State),
    (∃ r, exec (.wrw 0xFFFF#16 w) s =
      .next { s with trace := s.trace ++ [.icSetIE (w.extractLsb' 0 8)], rsp := r }) ∧
    (∃ t v, exec (.rdw 0xFFFF#16) s = .next t ∧
      t.rsp = some ((if s.ov = true then s.peek .boot 0 else s.peek .rom 0) ++ v) ∧
      t.trace = s.trace ++ [.icGetIE v] ∧ s.SameRouter t)

/-- R53, R54: a word written anywhere both of whose bytes are stores, even or odd, across regions or not, reads back;
its low byte is at the lower address. -/
def Obligations.WordWrittenReadsBackLittleEndian : Prop :=
  ∀ (a : Addr) (w : Word) (s : State),
    ((0x8000 ≤ a.toNat ∧ a.toNat ≤ 0xFE9E) ∨ (0xFF80 ≤ a.toNat ∧ a.toNat ≤ 0xFFFD)) →
    ∃ t u, exec (.wrw a w) s = .next t ∧ exec (.rdw a) t = .next u ∧ u.rsp = some w ∧
      (readByte a t).1 = w.extractLsb' 0 8 ∧ (readByte (a + 1#16) t).1 = w.extractLsb' 8 8

/-- R256: a word write that covers the DMA trigger (default parameters, log 5 to 8; no `DC_WR` of the trigger, D10, log
10) is the display-controller write and the whole transfer, in the order of the bytes. -/
def Obligations.WordWriteOverTheDmaTrigger : Prop :=
  ∀ (w : Word) (s : State), s.cfg = Config.default →
    (∃ r, exec (.wrw 0xFF45#16 w) s =
      .next { dma (w.extractLsb' 8 8) (s.emit (.dcWr 0xFF45#16 (w.extractLsb' 0 8))) with rsp := r }) ∧
    (∃ r, exec (.wrw 0xFF46#16 w) s =
      .next { (dma (w.extractLsb' 0 8) s).emit (.dcWr 0xFF47#16 (w.extractLsb' 8 8)) with rsp := r })

/-! ### Load, reset, overlay -/

/-- R210: `LOAD` of at least 0x8000 bytes makes `rom` the image, every byte of it, and changes nothing else; of fewer
bytes it is refused. -/
def Obligations.LoadReplacesTheImageWholesale : Prop :=
  ∀ (s : State),
    (0x8000 ≤ s.img.len → ∃ t, exec .load s = .next t ∧ t.rom.size = s.img.len ∧
      (∀ k, t.peek .rom k = s.img.byte k) ∧ (∀ id, id ≠ .rom → t.memory id = s.memory id) ∧
      t.ov = s.ov ∧ t.trace = s.trace ∧ t.cfg = s.cfg ∧ t.requests = s.requests ∧ t.img = s.img ∧
      t.answers = s.answers ∧ t.draws = s.draws) ∧
    (s.img.len < 0x8000 → exec .load s = .refused (.shortImage s.img.len))

/-- R250, R211: the state after power-on, and what `RESET` makes of every state. -/
def Obligations.ResetGivesTheResetTable : Prop :=
  (State.reset.ov = true ∧
    (∀ id ∈ [StoreId.boot, .rom, .vram, .oam], ∀ k, State.reset.peek id k = Config.unspecifiedByte id k) ∧
    (∀ id ∈ [StoreId.eram, .wram, .hram], ∀ k, State.reset.peek id k = 0x00#8) ∧ State.reset.trace = []) ∧
  ∀ (s : State), ∃ t, exec .reset s = .next t ∧ t.ov = true ∧
    (∀ id ∈ [StoreId.boot, .rom, .vram, .oam], t.memory id = s.memory id) ∧
    (∀ id ∈ [StoreId.eram, .wram, .hram], ∀ k, t.peek id k = 0x00#8) ∧
    t.eram.size = 8192 ∧ t.wram.size = 8192 ∧ t.hram.size = 128 ∧
    t.trace = s.trace ∧ t.cfg = s.cfg ∧ t.requests = s.requests ∧ t.img = s.img ∧ t.answers = s.answers ∧
    t.draws = s.draws

/-- R212: `BOOTOFF` makes the overlay inactive and does nothing else, whatever the flag was; a write to 0xFF50 is not
that trigger, it is a display-controller write. -/
def Obligations.BootoffClearsTheOverlay : Prop :=
  ∀ (v : Byte) (s : State),
    (∃ r, exec .bootoff s = .next { s with ov := false, rsp := r }) ∧
    (∃ r, exec (.wrbDcreg 0xFF50#16 v) s = .next { s with trace := s.trace ++ [.dcWr 0xFF50#16 v], rsp := r })

/-! ### One step -/

/-- A step runs the operation its word decodes to, in the state in which the request has left the requester's list and
its image is on the side port; with no request on the port the router does nothing (log 27, 28). -/
def Obligations.StepRunsTheDecodedOperation : Prop :=
  (∀ (s : State) (q : Request) (rest : List Request) (i : Instr), s.requests = q :: rest →
    decode s.cfg s.ov q.word = .ok i → step s = exec i { s with requests := rest, img := q.img }) ∧
  (∀ (s : State), s.requests = [] → step s = .next s)

/-- R140, R160: for every word, whatever its address and its unused bits (the spec's decision D4, log 4), and for every
admissible choice of the parameters (log 35), an `RDB` step is `ReadByte` through the address decoder of R130 with the
byte zero-extended on the response port and no state written, and a `WRB` step is `WriteByte`; neither writes the
overlay flag. -/
def Obligations.ByteStepsGoThroughTheAddressDecoder : Prop :=
  ∀ (s : State) (q : Request) (rest : List Request), s.cfg.wf = true → s.requests = q :: rest →
    (opCmd q.word = 0x00#8 →
      let r := readByte (opAddr q.word) { s with requests := rest, img := q.img }
      step s = .next { r.2 with rsp := some (0x00#8 ++ r.1) } ∧ (∀ id, r.2.memory id = s.memory id) ∧ r.2.ov = s.ov) ∧
    (opCmd q.word = 0x01#8 →
      let t := writeByte (opAddr q.word) ((opData q.word).extractLsb' 0 8) { s with requests := rest, img := q.img }
      ∃ r, step s = .next { t with rsp := r } ∧ t.ov = s.ov)

/-- R232, R88, R210 (the spec's decisions D3, D4, D17; log 3, 4, 17; log 35): with admissible parameters a step refuses
exactly a reserved command code and a `LOAD` of fewer than 0x8000 bytes. -/
def Obligations.StepRefusesExactlyTheTwoCases : Prop :=
  ∀ (s : State) (r : Refusal), s.cfg.wf = true →
    (step s = .refused r ↔ ∃ q rest, s.requests = q :: rest ∧
      ((7 ≤ (opCmd q.word).toNat ∧ r = .reservedCommand (opCmd q.word)) ∨
       (opCmd q.word = 0x04#8 ∧ q.img.len < 0x8000 ∧ r = .shortImage q.img.len)))

/-- R230, R270 (unused bits are ignored: the spec's decision D4, log 4; log 35): every other request completes in one
step, whatever the state. -/
def Obligations.EveryOtherRequestCompletes : Prop :=
  ∀ (s : State) (q : Request) (rest : List Request), s.cfg.wf = true → s.requests = q :: rest →
    (opCmd q.word).toNat < 7 → (opCmd q.word = 0x04#8 → 0x8000 ≤ q.img.len) →
    ∃ t, step s = .next t ∧ t.requests = rest ∧ t.img = q.img

/-- The invariant (R39, R7, the canonical form of the stores) holds at reset. -/
def Obligations.ResetStateIsGood : Prop := State.reset.Inv

/-- R39: every step keeps the invariant, from every state that has it. -/
def Obligations.EveryStepKeepsTheInvariant : Prop :=
  ∀ (s t : State), s.Inv → step s = .next t → t.Inv

/-- R21: only `RESET` sets the overlay flag and only `BOOTOFF` clears it. -/
def Obligations.OnlyResetAndBootoffChangeTheOverlayFlag : Prop :=
  ∀ (s t : State), step s = .next t → t.ov ≠ s.ov →
    ∃ q rest, s.requests = q :: rest ∧
      ((opCmd q.word = 0x05#8 ∧ t.ov = true) ∨ (opCmd q.word = 0x06#8 ∧ t.ov = false))

/-- R22, R23: no step changes the boot overlay, and only `LOAD` changes the program image. -/
def Obligations.BootIsConstantAndOnlyLoadChangesTheImage : Prop :=
  ∀ (s t : State), step s = .next t → t.boot = s.boot ∧
    (t.rom ≠ s.rom → ∃ q rest, s.requests = q :: rest ∧ opCmd q.word = 0x04#8)

/-- R57: a step of a read operation changes no store and not the flag, and emits read events only, at most one per byte.
-/
def Obligations.ReadStepsChangeNothingOfTheRouter : Prop :=
  ∀ (s t : State) (q : Request) (rest : List Request), s.requests = q :: rest →
    (opCmd q.word = 0x00#8 ∨ opCmd q.word = 0x02#8) → step s = .next t →
    (∀ id, t.memory id = s.memory id) ∧ t.ov = s.ov ∧
    ∃ evs, t.trace = s.trace ++ evs ∧ (∀ e ∈ evs, e.isRead = true) ∧
      evs.length ≤ if opCmd q.word = 0x00#8 then 1 else 2

/-- R10, R62: a step takes the first request and no other, only adds to the event trace, and never changes the
parameters. -/
def Obligations.StepsOnlyAddToTheTrace : Prop :=
  ∀ (s t : State), step s = .next t →
    (∃ evs, t.trace = s.trace ++ evs) ∧ t.requests = s.requests.tail ∧ t.cfg = s.cfg

/-- R58, R66, R258: the events of a byte write outside the DMA trigger, by address: one hook for the tile data and the
sprite table, with the address and value written, one write event for a collaborator's register, none anywhere else. -/
def Obligations.EventsOfAByteWriteByAddress : Prop :=
  ∀ (a : Addr) (v : Byte) (s : State), s.cfg.wf = true → a ≠ s.cfg.addrDma →
    (writeByte a v s).trace = s.trace ++
      (if 0x8000 ≤ a.toNat ∧ a.toNat ≤ 0x97FF then [.tile a v]
       else if 0xFE00 ≤ a.toNat ∧ a.toNat ≤ 0xFE9F then [.sprite a v]
       else if a = 0xFFFF#16 then [.icSetIE v]
       else if a = s.cfg.addrInput then [.inWr v]
       else if a = s.cfg.addrIf then [.icSetIF v]
       else if 0xFF00 ≤ a.toNat ∧ a.toNat ≤ 0xFF7F ∧ a.extractLsb' 4 4 ∈ s.cfg.dcBlocks then [.dcWr a v]
       else [])

/-- R254, R26, C2: `a` and `a + 0x2000` name the same byte of work RAM for `a` in 0xC000 to 0xDDFF, a write through one
window is what the other reads; the last 512 bytes of work RAM have no second address. -/
def Obligations.WorkRamWindowsShareTheirBytes : Prop :=
  ∀ (a : Addr) (v : Byte) (s : State),
    (0xC000 ≤ a.toNat → a.toNat ≤ 0xDDFF →
      decodeAddr s.cfg s.ov a = decodeAddr s.cfg s.ov (a + 0x2000#16) ∧
      (readByte (a + 0x2000#16) (writeByte a v s)).1 = v ∧ (readByte a (writeByte (a + 0x2000#16) v s)).1 = v) ∧
    (0xDE00 ≤ a.toNat → a.toNat ≤ 0xDFFF →
      ∀ b, decodeAddr s.cfg s.ov b = decodeAddr s.cfg s.ov a → b = a)

/-- R59: writing the same byte twice outside the DMA trigger leaves the stores as writing it once. -/
def Obligations.RepeatedByteWriteLeavesTheSameStores : Prop :=
  ∀ (a : Addr) (v : Byte) (s : State), a ≠ s.cfg.addrDma →
    ∀ id k, (writeByte a v (writeByte a v s)).peek id k = (writeByte a v s).peek id k

/-- The bytes no operation can read: the dead byte of high RAM (R28, R255), the program image past its window (R23),
and, while the overlay is active, its first page (R253). -/
def Sys2Proof.Claims.hiddenByte (s : State) (id : StoreId) (k : Nat) : Prop :=
  (id = .hram ∧ k = 0x7F) ∨ (id = .rom ∧ 0x8000 ≤ k) ∨ (id = .rom ∧ k < 0x0100 ∧ s.ov = true)

/-- R23, R28, R253, R255: with admissible parameters, changing a hidden byte changes neither what any step does, nor its
response, nor its events, nor any other byte of any store; and no step changes the dead byte of high RAM but `RESET`,
which leaves it 0x00. -/
def Obligations.HiddenBytesHaveNoInfluence : Prop :=
  (∀ (s t : State) (id : StoreId) (k : Nat) (v : Byte), s.cfg.wf = true → Sys2Proof.Claims.hiddenByte s id k →
    step s = .next t →
    ∃ t', step (s.poke id k v) = .next t' ∧ t'.rsp = t.rsp ∧ t'.trace = t.trace ∧ t'.ov = t.ov ∧
      t'.answers = t.answers ∧ t'.draws = t.draws ∧
      (∀ j n, ¬ (j = id ∧ n = k) → t'.peek j n = t.peek j n)) ∧
  (∀ (s t : State), s.cfg.wf = true → step s = .next t →
    t.peek .hram 0x7F = s.peek .hram 0x7F ∨ ∃ q rest, s.requests = q :: rest ∧ opCmd q.word = 0x05#8 ∧
      t.peek .hram 0x7F = 0x00#8)
end

