-- ==== Sys2Proof/Laws/Decode.lean ====
section
/-! SUPPORT. The fields of an operation word and the bit arithmetic of addresses, as arithmetic. -/

namespace Sys2Proof

/-- Concatenation as arithmetic (R8). -/
theorem append_toNat {n m : Nat} (x : BitVec n) (y : BitVec m) : (x ++ y).toNat = x.toNat * 2 ^ m + y.toNat := by
  rw [BitVec.toNat_append, Nat.shiftLeft_eq, Nat.mul_comm, Nat.two_pow_add_eq_or_of_lt y.isLt]

/-- A bit field as arithmetic (R8). -/
theorem field_toNat {n : Nat} (x : BitVec n) (lo len : Nat) :
    (x.extractLsb' lo len).toNat = x.toNat / 2 ^ lo % 2 ^ len := by
  rw [BitVec.extractLsb'_toNat, Nat.shiftRight_eq_div_pow]

theorem opWord_toNat (c : Byte) (a : Addr) (d : Word) :
    (opWord c a d).toNat = c.toNat * 2 ^ 32 + a.toNat * 2 ^ 16 + d.toNat := by
  have h : (opWord c a d).toNat = c.toNat * 2 ^ (16 + 16) + (a ++ d).toNat := append_toNat c (a ++ d)
  rw [h, append_toNat]
  omega

@[simp] theorem opCmd_opWord (c : Byte) (a : Addr) (d : Word) : opCmd (opWord c a d) = c := by
  apply BitVec.eq_of_toNat_eq
  rw [opCmd, field_toNat, opWord_toNat]
  have := c.isLt; have := a.isLt; have := d.isLt
  omega

@[simp] theorem opAddr_opWord (c : Byte) (a : Addr) (d : Word) : opAddr (opWord c a d) = a := by
  apply BitVec.eq_of_toNat_eq
  rw [opAddr, field_toNat, opWord_toNat]
  have := c.isLt; have := a.isLt; have := d.isLt
  omega

@[simp] theorem opData_opWord (c : Byte) (a : Addr) (d : Word) : opData (opWord c a d) = d := by
  apply BitVec.eq_of_toNat_eq
  rw [opData, field_toNat, opWord_toNat]
  have := c.isLt; have := a.isLt; have := d.isLt
  omega

theorem byteData_toNat (v : Byte) : (byteData v).toNat = v.toNat := by
  have h : (byteData v).toNat = (0x00#8 : Byte).toNat * 2 ^ 8 + v.toNat := append_toNat (0x00#8 : Byte) v
  simpa using h

/-- The byte of a `WRB`'s data field. -/
@[simp] theorem byteData_low (v : Byte) : (byteData v).extractLsb' 0 8 = v := by
  apply BitVec.eq_of_toNat_eq
  rw [field_toNat, byteData_toNat]
  have := v.isLt
  omega

/-- The ignored bits of a `WRB`'s data field are zero in the canonical encoding (R82). -/
@[simp] theorem byteData_high (v : Byte) : (byteData v).extractLsb' 8 8 = 0x00#8 := by
  apply BitVec.eq_of_toNat_eq
  rw [field_toNat, byteData_toNat]
  have := v.isLt
  simp only [BitVec.toNat_ofNat]
  omega

/-! ### Masks of high bits -/

/-- A mask of high bits, as arithmetic: `a & mask = value` compares the number above the low `k` bits (R8, R94). -/
theorem and_highMask_eq_iff (a v : Addr) (k : Nat) (m : Addr) (hk : k ≤ 16) (hm : m.toNat = 2 ^ 16 - 2 ^ k) (hv : v.toNat % 2 ^ k = 0) :
    (a &&& m = v) ↔ a.toNat / 2 ^ k = v.toNat / 2 ^ k := by
  have e : m = ~~~ (BitVec.ofNat 16 (2 ^ k - 1)) := by
    apply BitVec.eq_of_toNat_eq
    rw [BitVec.toNat_not, hm, BitVec.toNat_ofNat]
    have : 2 ^ k ≤ 2 ^ 16 := Nat.pow_le_pow_right (by omega) hk
    have : 0 < 2 ^ k := Nat.two_pow_pos k
    rw [Nat.mod_eq_of_lt (by omega)]; omega
  have e2 : a &&& m = (a >>> k) <<< k := by
    rw [e]
    apply BitVec.eq_of_getLsbD_eq
    intro i hi
    simp only [BitVec.getLsbD_and, BitVec.getLsbD_not, BitVec.getLsbD_ofNat, Nat.testBit_two_pow_sub_one, BitVec.getLsbD_shiftLeft, BitVec.getLsbD_ushiftRight, hi]
    by_cases h : i < k
    · simp [h]
    · simp [h]; rw [show k + (i-k) = i by omega]
  rw [e2]
  rw [← BitVec.toNat_inj, BitVec.toNat_shiftLeft, BitVec.toNat_ushiftRight, Nat.shiftRight_eq_div_pow, Nat.shiftLeft_eq]
  have h1 : a.toNat / 2 ^ k * 2 ^ k ≤ a.toNat := Nat.div_mul_le_self _ _
  have := a.isLt
  rw [Nat.mod_eq_of_lt (by omega)]
  have hp : 0 < 2 ^ k := Nat.two_pow_pos k
  have hv' : v.toNat / 2 ^ k * 2 ^ k = v.toNat := Nat.div_mul_cancel (Nat.dvd_of_mod_eq_zero hv)
  constructor
  · intro h; rw [← hv'] at h; exact Nat.eq_of_mul_eq_mul_right hp h
  · intro h; rw [h, hv']

/-! ### Offsets: a mask of low bits is a remainder (R85) -/

theorem offsetPage_toNat (a : Addr) : (offsetPage a).toNat = a.toNat % 256 := by
  simpa [offsetPage] using Nat.and_two_pow_sub_one_eq_mod a.toNat 8

theorem offsetRom_toNat (a : Addr) : (offsetRom a).toNat = a.toNat % 32768 := by
  simpa [offsetRom] using Nat.and_two_pow_sub_one_eq_mod a.toNat 15

theorem offset13_toNat (a : Addr) : (offset13 a).toNat = a.toNat % 8192 := by
  simpa [offset13] using Nat.and_two_pow_sub_one_eq_mod a.toNat 13

theorem offsetHram_toNat (a : Addr) : (offsetHram a).toNat = a.toNat % 128 := by
  simpa [offsetHram] using Nat.and_two_pow_sub_one_eq_mod a.toNat 7

/-- The image window: which of its two readers answers, by the number of the address (R113, R114). -/
theorem imageWindowDest_cases (ov : Bool) (a : Addr) :
    (ov = true ∧ a.toNat < 0x100 ∧ imageWindowDest ov a = .boot (offsetPage a)) ∨
    (¬ (ov = true ∧ a.toNat < 0x100) ∧ imageWindowDest ov a = .rom (offsetRom a)) := by
  have hb : a.extractLsb' 8 8 = 0x00#8 ↔ a.toNat < 0x100 := by
    rw [← BitVec.toNat_inj, field_toNat]
    have := a.isLt
    simp only [BitVec.toNat_ofNat]
    omega
  unfold imageWindowDest
  simp only [hb]
  by_cases h : ov = true ∧ a.toNat < 0x100
  · exact .inl ⟨h.1, h.2, if_pos h⟩
  · exact .inr ⟨h, if_neg h⟩

/-- The decoder's answer, by the number of the address: every way it can end (R113 to R128, R130). -/
theorem decodeAddr_cases (c : Config) (ov : Bool) (a : Addr) :
    (a.toNat < 0x8000 ∧ decodeAddr c ov a = imageWindowDest ov a) ∨
    (0x8000 ≤ a.toNat ∧ a.toNat < 0xA000 ∧ decodeAddr c ov a = .vram (offset13 a)) ∨
    (0xA000 ≤ a.toNat ∧ a.toNat < 0xC000 ∧ decodeAddr c ov a = .eram (offset13 a)) ∨
    (0xC000 ≤ a.toNat ∧ a.toNat < 0xFE00 ∧ decodeAddr c ov a = .wram (offset13 a)) ∨
    (0xFE00 ≤ a.toNat ∧ a.toNat < 0xFEA0 ∧ decodeAddr c ov a = .oam (offsetPage a)) ∨
    (0xFEA0 ≤ a.toNat ∧ a.toNat < 0xFF00 ∧ decodeAddr c ov a = .unusable) ∨
    (a.toNat = 0xFFFF ∧ decodeAddr c ov a = .ie) ∨
    (0xFF80 ≤ a.toNat ∧ a.toNat < 0xFFFF ∧ decodeAddr c ov a = .hram (offsetHram a)) ∨
    (0xFF00 ≤ a.toNat ∧ a.toNat < 0xFF80 ∧ decodeAddr c ov a =
      if a = c.addrInput then .input else if a = c.addrIf then .ifReg else if a = c.addrDma then .dma
      else if inDcBlocks c a then .dcreg else .iozero) := by
  have ha := a.isLt
  have e1 : a.extractLsb' 15 1 = 0#1 ↔ a.toNat < 0x8000 := by
    rw [← BitVec.toNat_inj, field_toNat]; simp only [BitVec.toNat_ofNat]; omega
  have e2 : ∀ k : Nat, k < 8 → (a.extractLsb' 13 3 = BitVec.ofNat 3 k ↔ a.toNat / 8192 = k) := by
    intro k hk
    rw [← BitVec.toNat_inj, field_toNat]; simp only [BitVec.toNat_ofNat]; omega
  have e3 : a ≤ 0xFDFF#16 ↔ a.toNat < 0xFE00 := by
    rw [BitVec.le_def]; simp only [BitVec.toNat_ofNat]; omega
  have e4 : a.extractLsb' 8 8 = 0xFE#8 ↔ a.toNat / 256 = 0xFE := by
    rw [← BitVec.toNat_inj, field_toNat]; simp only [BitVec.toNat_ofNat]; omega
  have e5 : a.extractLsb' 0 8 < 0xA0#8 ↔ a.toNat % 256 < 0xA0 := by
    rw [BitVec.lt_def, field_toNat]; simp only [BitVec.toNat_ofNat]; omega
  have e6 : a = 0xFFFF#16 ↔ a.toNat = 0xFFFF := by
    rw [← BitVec.toNat_inj]; simp only [BitVec.toNat_ofNat]
  have e7 : a.extractLsb' 7 1 = 1#1 ↔ a.toNat / 128 % 2 = 1 := by
    rw [← BitVec.toNat_inj, field_toNat]; simp only [BitVec.toNat_ofNat]; omega
  have e24 := e2 4 (by omega); have e25 := e2 5 (by omega); have e26 := e2 6 (by omega)
  unfold decodeAddr
  rw [show (0b100#3 : BitVec 3) = BitVec.ofNat 3 4 from rfl, show (0b101#3 : BitVec 3) = BitVec.ofNat 3 5 from rfl,
    show (0b110#3 : BitVec 3) = BitVec.ofNat 3 6 from rfl]
  simp only [e1, e24, e25, e26, e3, e4, e5, e6, e7]
  by_cases h1 : a.toNat < 0x8000
  · exact .inl ⟨h1, if_pos h1⟩
  · rw [if_neg h1]
    by_cases h2 : a.toNat / 8192 = 4
    · rw [if_pos h2]; exact .inr (.inl ⟨by omega, by omega, rfl⟩)
    · rw [if_neg h2]
      by_cases h3 : a.toNat / 8192 = 5
      · rw [if_pos h3]; exact .inr (.inr (.inl ⟨by omega, by omega, rfl⟩))
      · rw [if_neg h3]
        refine .inr (.inr (.inr ?_))
        by_cases h4 : a.toNat / 8192 = 6
        · rw [if_pos h4]; exact .inl ⟨by omega, by omega, rfl⟩
        · rw [if_neg h4]
          by_cases h5 : a.toNat < 0xFE00
          · rw [if_pos h5]; exact .inl ⟨by omega, by omega, rfl⟩
          · rw [if_neg h5]
            refine .inr ?_
            by_cases h6 : a.toNat / 256 = 0xFE
            · rw [if_pos h6]
              by_cases h7 : a.toNat % 256 < 0xA0
              · rw [if_pos h7]; exact .inl ⟨by omega, by omega, rfl⟩
              · rw [if_neg h7]; exact .inr (.inl ⟨by omega, by omega, rfl⟩)
            · rw [if_neg h6]
              refine .inr (.inr ?_)
              by_cases h8 : a.toNat = 0xFFFF
              · rw [if_pos h8]; exact .inl ⟨h8, rfl⟩
              · rw [if_neg h8]
                refine .inr ?_
                by_cases h9 : a.toNat / 128 % 2 = 1
                · rw [if_pos h9]; exact .inl ⟨by omega, by omega, rfl⟩
                · rw [if_neg h9]; exact .inr ⟨by omega, by omega, rfl⟩

/-! ### The same, window by window -/

theorem decodeAddr_image (c : Config) (ov : Bool) (a : Addr) (hi : a.toNat < 0x8000) :
    decodeAddr c ov a = imageWindowDest ov a := by
  rcases decodeAddr_cases c ov a with h | h | h | h | h | h | h | h | h <;> first | omega | simp only [h]

theorem decodeAddr_vram (c : Config) (ov : Bool) (a : Addr) (lo : 0x8000 ≤ a.toNat) (hi : a.toNat < 0xA000) :
    decodeAddr c ov a = .vram (offset13 a) := by
  rcases decodeAddr_cases c ov a with h | h | h | h | h | h | h | h | h <;> first | omega | simp only [h]

theorem decodeAddr_eram (c : Config) (ov : Bool) (a : Addr) (lo : 0xA000 ≤ a.toNat) (hi : a.toNat < 0xC000) :
    decodeAddr c ov a = .eram (offset13 a) := by
  rcases decodeAddr_cases c ov a with h | h | h | h | h | h | h | h | h <;> first | omega | simp only [h]

theorem decodeAddr_wram (c : Config) (ov : Bool) (a : Addr) (lo : 0xC000 ≤ a.toNat) (hi : a.toNat < 0xFE00) :
    decodeAddr c ov a = .wram (offset13 a) := by
  rcases decodeAddr_cases c ov a with h | h | h | h | h | h | h | h | h <;> first | omega | simp only [h]

theorem decodeAddr_oam (c : Config) (ov : Bool) (a : Addr) (lo : 0xFE00 ≤ a.toNat) (hi : a.toNat < 0xFEA0) :
    decodeAddr c ov a = .oam (offsetPage a) := by
  rcases decodeAddr_cases c ov a with h | h | h | h | h | h | h | h | h <;> first | omega | simp only [h]

theorem decodeAddr_unusable (c : Config) (ov : Bool) (a : Addr) (lo : 0xFEA0 ≤ a.toNat) (hi : a.toNat < 0xFF00) :
    decodeAddr c ov a = .unusable := by
  rcases decodeAddr_cases c ov a with h | h | h | h | h | h | h | h | h <;> first | omega | simp only [h]

theorem decodeAddr_hram (c : Config) (ov : Bool) (a : Addr) (lo : 0xFF80 ≤ a.toNat) (hi : a.toNat < 0xFFFF) :
    decodeAddr c ov a = .hram (offsetHram a) := by
  rcases decodeAddr_cases c ov a with h | h | h | h | h | h | h | h | h <;> first | omega | simp only [h]

theorem decodeAddr_io (c : Config) (ov : Bool) (a : Addr) (lo : 0xFF00 ≤ a.toNat) (hi : a.toNat < 0xFF80) :
    decodeAddr c ov a = 
      if a = c.addrInput then .input else if a = c.addrIf then .ifReg else if a = c.addrDma then .dma
      else if inDcBlocks c a then .dcreg else .iozero := by
  rcases decodeAddr_cases c ov a with h | h | h | h | h | h | h | h | h <;> first | omega | simp only [h]

theorem decodeAddr_ie (c : Config) (ov : Bool) (a : Addr) (h : a.toNat = 0xFFFF) : decodeAddr c ov a = .ie := by
  rcases decodeAddr_cases c ov a with h | h | h | h | h | h | h | h | h <;> first | omega | simp only [h]

theorem imageWindowDest_boot (ov : Bool) (a : Addr) (h : ov = true) (ha : a.toNat < 0x100) :
    imageWindowDest ov a = .boot (offsetPage a) :=
  (imageWindowDest_cases ov a).elim (fun x => x.2.2) fun x => absurd ⟨h, ha⟩ x.1

theorem imageWindowDest_rom (ov : Bool) (a : Addr) (h : ¬ (ov = true ∧ a.toNat < 0x100)) :
    imageWindowDest ov a = .rom (offsetRom a) :=
  (imageWindowDest_cases ov a).elim (fun x => absurd ⟨x.1, x.2.1⟩ h) fun x => x.2

/-- What `Config.wf` says, in numbers (R7). -/
theorem Config.wf_parts (c : Config) (h : c.wf = true) :
    (0xFF00 ≤ c.addrInput.toNat ∧ c.addrInput.toNat ≤ 0xFF7F) ∧ (0xFF00 ≤ c.addrIf.toNat ∧ c.addrIf.toNat ≤ 0xFF7F) ∧
    (0xFF00 ≤ c.addrDma.toNat ∧ c.addrDma.toNat ≤ 0xFF7F) ∧ c.addrInput ≠ c.addrIf ∧ c.addrInput ≠ c.addrDma ∧
    c.addrIf ≠ c.addrDma ∧ c.dcBlocks.length = 4 ∧ c.dcBlocks.Pairwise (· < ·) ∧ (∀ k ∈ c.dcBlocks, k.toNat < 8) ∧
    5#4 ∈ c.dcBlocks := by
  simp [Config.wf, Config.inIoPage, BitVec.le_def, BitVec.lt_def] at h
  obtain ⟨⟨⟨⟨⟨⟨⟨⟨⟨h1, h2⟩, h3⟩, h4⟩, h5⟩, h6⟩, h7⟩, h8⟩, h9⟩, h10⟩ := h
  exact ⟨h1, h2, h3, h4, h5, h6, h7, h8, h9, h10⟩

theorem Config.default_wf : Config.default.wf = true := by decide

end Sys2Proof
end

