-- ==== Sys2Proof/Laws/EntryMap.lean ====
section
/-! SUPPORT. The operation map of R94 as arithmetic on the number of the address: what one (mask, match) pair tests, and
what the whole ordered list finds. -/

namespace Sys2Proof

/-- A row whose mask keeps the bits from `k` up tests the address divided by `2 ^ k`. -/
theorem EntryRow.hits_iff (ov : Bool) (a m v : Addr) (b : Bool) (e : Entry) (k : Nat) (hk : k ≤ 16)
    (hm : m.toNat = 2 ^ 16 - 2 ^ k) (hv : v.toNat % 2 ^ k = 0) :
    EntryRow.hits ov a ⟨m, v, b, e⟩ = decide (a.toNat / 2 ^ k = v.toNat / 2 ^ k ∧ (b = false ∨ ov = true)) := by
  rw [Bool.eq_iff_iff]
  simp [EntryRow.hits, and_highMask_eq_iff a v k m hk hm hv]

/-- The rows of the display controller's blocks find an address of the top page in an accepted block. -/
theorem dcRows_find (c : Config) (ov : Bool) (a : Addr) :
    ((dcRows c).find? (EntryRow.hits ov a)).map EntryRow.entry =
      if a.toNat / 256 = 0xFF ∧ inDcBlocks c a = true then some .dcreg else none := by
  have hb : inDcBlocks c a = true ↔ a.extractLsb' 4 4 ∈ c.dcBlocks := by simp [inDcBlocks]
  have key : ∀ k : BitVec 4, EntryRow.hits ov a ⟨0xFFF0#16, dcBlockBase k, false, .dcreg⟩ = true ↔
      a.toNat / 256 = 0xFF ∧ a.extractLsb' 4 4 = k := by
    intro k
    have ht : (dcBlockBase k).toNat = 0xFF00 + k.toNat * 16 := by
      have h : (dcBlockBase k).toNat = (0xFF#8 : Byte).toNat * 2 ^ 8 + (k ++ 0#4).toNat :=
        append_toNat (0xFF#8 : Byte) (k ++ 0#4)
      rw [h, append_toNat]; simp
    rw [EntryRow.hits_iff _ _ _ _ _ _ 4 (by omega) (by decide) (by rw [ht]; omega)]
    rw [← BitVec.toNat_inj (x := a.extractLsb' 4 4), field_toNat, ht]
    have := a.isLt; have := k.isLt
    simp only [decide_eq_true_eq, true_or, and_true, Nat.reducePow]
    omega
  simp only [hb]
  unfold dcRows
  have all : ∀ bs : List (BitVec 4),
      ((bs.map fun k => (⟨0xFFF0#16, dcBlockBase k, false, .dcreg⟩ : EntryRow)).find? (EntryRow.hits ov a)).map
        EntryRow.entry = if a.toNat / 256 = 0xFF ∧ a.extractLsb' 4 4 ∈ bs then some .dcreg else none := by
    intro bs
    induction bs with
    | nil => simp
    | cons k rest ih =>
      rw [List.map_cons, List.find?_cons]
      by_cases h : EntryRow.hits ov a ⟨0xFFF0#16, dcBlockBase k, false, .dcreg⟩ = true
      · rw [h]; have := (key k).1 h; simp [this]
      · have h2 := mt (key k).2 h
        rw [Bool.not_eq_true] at h; rw [h]; simp only [ih]
        by_cases h3 : a.toNat / 256 = 0xFF
        · have : a.extractLsb' 4 4 ≠ k := fun hh => h2 ⟨h3, hh⟩
          simp [h3, this]
        · simp [h3]
  exact all c.dcBlocks

/-- The first entry of a list of rows that an address matches. -/
theorem findEntry_cons (ov : Bool) (a : Addr) (r : EntryRow) (l : List EntryRow) :
    ((r :: l).find? (EntryRow.hits ov a)).map EntryRow.entry =
      if EntryRow.hits ov a r = true then some r.entry else (l.find? (EntryRow.hits ov a)).map EntryRow.entry := by
  rw [List.find?_cons]; cases EntryRow.hits ov a r <;> simp

theorem findEntry_append (ov : Bool) (a : Addr) (l m : List EntryRow) :
    ((l ++ m).find? (EntryRow.hits ov a)).map EntryRow.entry =
      ((l.find? (EntryRow.hits ov a)).map EntryRow.entry).or ((m.find? (EntryRow.hits ov a)).map EntryRow.entry) := by
  rw [List.find?_append]; cases List.find? (EntryRow.hits ov a) l <;> simp

/-- One link of a chain of tests: an equivalent test, and the rest of the chain where it fails. -/
theorem ite_link {α : Type} {P Q : Prop} [Decidable P] [Decidable Q] {x A B : α} (h : P ↔ Q) (h2 : ¬ Q → A = B) :
    (if P then x else A) = if Q then x else B := by
  by_cases hq : Q
  · rw [if_pos hq, if_pos (h.2 hq)]
  · rw [if_neg hq, if_neg (mt h.1 hq), h2 hq]

/-- What the operation map finds, as ranges of the address (the last column of R94). -/
theorem findEntry_ranges (c : Config) (hw : c.wf = true) (ov : Bool) (a : Addr) : findEntry c ov a =
    if a.toNat = 0xFFFF then some .ie else if 0xFF80 ≤ a.toNat then some .hram
    else if a = c.addrInput then some .input else if a = c.addrIf then some .ifReg
    else if a = c.addrDma then some .dma
    else if 0xFF00 ≤ a.toNat ∧ inDcBlocks c a = true then some .dcreg
    else if 0xFF00 ≤ a.toNat then some .iozero
    else if 0xFE00 ≤ a.toNat ∧ a.toNat < 0xFE80 then some .oamLo
    else if 0xFE00 ≤ a.toNat ∧ a.toNat < 0xFEA0 then some .oamHi
    else if 0xFE00 ≤ a.toNat then some .unusable
    else if 0xC000 ≤ a.toNat ∧ a.toNat < 0xE000 then some .wram
    else if 0xE000 ≤ a.toNat then some .wramMirror
    else if 0xA000 ≤ a.toNat then some .eram
    else if 0x8000 ≤ a.toNat ∧ a.toNat < 0x9000 then some .vramTileLo
    else if 0x8000 ≤ a.toNat ∧ a.toNat < 0x9800 then some .vramTileHi
    else if 0x8000 ≤ a.toNat then some .vramMap
    else if a.toNat < 0x100 ∧ ov = true then some .boot else some .rom := by
  have ha := a.isLt
  have hd := dcRows_find c ov a
  have full : ∀ v e, EntryRow.hits ov a ⟨0xFFFF#16, v, false, e⟩ = decide (a = v) := by
    intro v e
    rw [EntryRow.hits_iff _ _ _ _ _ _ 0 (by omega) (by decide) (by omega)]
    simp [BitVec.toNat_inj]
  have h2 := EntryRow.hits_iff ov a 0xFF80#16 0xFF80#16 false .hram 7 (by omega) (by decide) (by decide)
  have h7 := EntryRow.hits_iff ov a 0xFF80#16 0xFF00#16 false .iozero 7 (by omega) (by decide) (by decide)
  have h8 := EntryRow.hits_iff ov a 0xFF80#16 0xFE00#16 false .oamLo 7 (by omega) (by decide) (by decide)
  have h9 := EntryRow.hits_iff ov a 0xFFE0#16 0xFE80#16 false .oamHi 5 (by omega) (by decide) (by decide)
  have h10 := EntryRow.hits_iff ov a 0xFF00#16 0xFE00#16 false .unusable 8 (by omega) (by decide) (by decide)
  have h11 := EntryRow.hits_iff ov a 0xE000#16 0xC000#16 false .wram 13 (by omega) (by decide) (by decide)
  have h12 := EntryRow.hits_iff ov a 0xE000#16 0xE000#16 false .wramMirror 13 (by omega) (by decide) (by decide)
  have h13 := EntryRow.hits_iff ov a 0xE000#16 0xA000#16 false .eram 13 (by omega) (by decide) (by decide)
  have h14 := EntryRow.hits_iff ov a 0xF000#16 0x8000#16 false .vramTileLo 12 (by omega) (by decide) (by decide)
  have h15 := EntryRow.hits_iff ov a 0xF800#16 0x9000#16 false .vramTileHi 11 (by omega) (by decide) (by decide)
  have h16 := EntryRow.hits_iff ov a 0xF800#16 0x9800#16 false .vramMap 11 (by omega) (by decide) (by decide)
  have h17 := EntryRow.hits_iff ov a 0xFF00#16 0x0000#16 true .boot 8 (by omega) (by decide) (by decide)
  have h18 := EntryRow.hits_iff ov a 0x8000#16 0x0000#16 false .rom 15 (by omega) (by decide) (by decide)
  obtain ⟨_, _, _, _⟩ := c.wf_parts hw
  have e1 : a = 0xFFFF#16 ↔ a.toNat = 0xFFFF := by rw [← BitVec.toNat_inj]; rfl
  have ei : a = c.addrInput ↔ a.toNat = c.addrInput.toNat := BitVec.toNat_inj.symm
  have ef : a = c.addrIf ↔ a.toNat = c.addrIf.toNat := BitVec.toNat_inj.symm
  have ed : a = c.addrDma ↔ a.toNat = c.addrDma.toNat := BitVec.toNat_inj.symm
  simp only [BitVec.toNat_ofNat, true_or, and_true, Bool.true_eq_false, false_or, Nat.reducePow, Nat.reduceMod,
    Nat.reduceDiv] at h2 h7 h8 h9 h10 h11 h12 h13 h14 h15 h16 h17 h18
  have orIte : ∀ (Q : Prop) [Decidable Q] (y : Option Entry),
      (if Q then some Entry.dcreg else none).or y = if Q then some .dcreg else y := by
    intro Q _ y; by_cases h : Q <;> simp [h]
  unfold findEntry entryRows
  simp only [List.cons_append, List.nil_append, findEntry_cons, findEntry_append, full, h2, h7, h8, h9, h10, h11, h12,
    h13, h14, h15, h16, h17, h18, hd, orIte, decide_eq_true_eq]
  clear hd full h2 h7 h8 h9 h10 h11 h12 h13 h14 h15 h16 h17 h18 orIte
  refine ite_link e1 fun n1 => ?_
  refine ite_link (by omega) fun n2 => ?_
  refine ite_link Iff.rfl fun n3 => ?_
  refine ite_link Iff.rfl fun n4 => ?_
  refine ite_link Iff.rfl fun n5 => ?_
  refine ite_link (and_congr_left fun _ => by omega) fun n6 => ?_
  refine ite_link (by omega) fun n7 => ?_
  refine ite_link (by omega) fun n8 => ?_
  refine ite_link (by omega) fun n9 => ?_
  refine ite_link (by omega) fun n10 => ?_
  refine ite_link (by omega) fun n11 => ?_
  refine ite_link (by omega) fun n12 => ?_
  refine ite_link (by omega) fun n13 => ?_
  refine ite_link (by omega) fun n14 => ?_
  refine ite_link (by omega) fun n15 => ?_
  refine ite_link (by omega) fun n16 => ?_
  refine ite_link (and_congr_left fun _ => by omega) fun n17 => ?_
  rw [if_pos (by omega)]

end Sys2Proof
end

