-- ==== Sys2Proof/Laws/Memory.lean ====
section
/-! SUPPORT. The laws of the stores: a read after a write, the canonical form, and images. -/

namespace Sys2Proof.Machine

/-! ### Listed bytes -/

theorem cellsGet_put (cs : List Host.Cell) (k j : Nat) (v : Byte) :
    cellsGet (cellsPut cs k v) j = if j = k then some v else cellsGet cs j := by
  induction cs with
  | nil => simp [cellsPut, cellsGet]
  | cons x rest ih =>
    simp only [cellsPut]
    by_cases hlt : k < x.1
    · simp [hlt, cellsGet]
    · by_cases heq : k = x.1
      · subst heq
        by_cases hj : j = x.1 <;> simp [cellsGet, hj]
      · simp only [hlt, heq, if_false, cellsGet, ih]
        by_cases hj : j = x.1
        · simp [hj, show ¬ x.1 = k from fun h => heq h.symm]
        · simp [hj]

theorem cellsGet_drop (cs : List Host.Cell) (k j : Nat) :
    cellsGet (cellsDrop cs k) j = if j = k then none else cellsGet cs j := by
  induction cs with
  | nil => simp [cellsDrop, cellsGet]
  | cons x rest ih =>
    simp only [cellsDrop]
    by_cases heq : k = x.1
    · subst heq
      rw [if_pos rfl, ih]
      by_cases hj : j = x.1 <;> simp [cellsGet, hj]
    · simp only [heq, if_false, cellsGet, ih]
      by_cases hj : j = x.1
      · simp [hj, show ¬ x.1 = k from fun h => heq h.symm]
      · simp [hj]

/-- Strictly rising, as a relation between neighbours in order. -/
theorem cellsRising_iff (cs : List Host.Cell) : cellsRising cs = true ↔ cs.Pairwise (fun x y => x.1 < y.1) := by
  induction cs with
  | nil => simp [cellsRising]
  | cons x rest ih =>
    cases rest with
    | nil => simp [cellsRising]
    | cons y rest =>
      simp only [cellsRising, Bool.and_eq_true, decide_eq_true_eq, ih, List.pairwise_cons]
      constructor
      · rintro ⟨hxy, hy, hr⟩
        refine ⟨fun z hz => ?_, hy, hr⟩
        rcases List.mem_cons.1 hz with rfl | hz
        · exact hxy
        · exact Nat.lt_trans hxy (hy z hz)
      · rintro ⟨hx, hy, hr⟩
        exact ⟨hx y (List.mem_cons_self ..), hy, hr⟩

theorem cellsPut_mem (cs : List Host.Cell) (k : Nat) (v : Byte) (x : Host.Cell) (h : x ∈ cellsPut cs k v) :
    x = (k, v) ∨ x ∈ cs := by
  induction cs with
  | nil => simpa [cellsPut] using h
  | cons y rest ih =>
    simp only [cellsPut] at h
    split at h
    · simpa using h
    · split at h
      · rcases List.mem_cons.1 h with h | h
        · exact .inl h
        · exact .inr (List.mem_cons_of_mem _ h)
      · rcases List.mem_cons.1 h with h | h
        · exact .inr (h ▸ List.mem_cons_self ..)
        · exact (ih h).imp_right (List.mem_cons_of_mem _)

theorem cellsDrop_mem (cs : List Host.Cell) (k : Nat) (x : Host.Cell) (h : x ∈ cellsDrop cs k) : x ∈ cs := by
  induction cs with
  | nil => simp [cellsDrop] at h
  | cons y rest ih =>
    simp only [cellsDrop] at h
    split at h
    · exact List.mem_cons_of_mem _ (ih h)
    · rcases List.mem_cons.1 h with h | h
      · exact h ▸ List.mem_cons_self ..
      · exact List.mem_cons_of_mem _ (ih h)

theorem cellsRising_put (cs : List Host.Cell) (k : Nat) (v : Byte) (h : cellsRising cs = true) :
    cellsRising (cellsPut cs k v) = true := by
  rw [cellsRising_iff] at h ⊢
  induction cs with
  | nil => simp [cellsPut]
  | cons x rest ih =>
    obtain ⟨hx, hr⟩ := List.pairwise_cons.1 h
    simp only [cellsPut]
    split
    · next hk =>
      refine List.pairwise_cons.2 ⟨fun z hz => ?_, h⟩
      rcases List.mem_cons.1 hz with rfl | hz
      · exact hk
      · exact Nat.lt_trans hk (hx z hz)
    · split
      · next hk => exact List.pairwise_cons.2 ⟨fun z hz => hk ▸ hx z hz, hr⟩
      · next hlt hne =>
        refine List.pairwise_cons.2 ⟨fun z hz => ?_, ih hr⟩
        rcases cellsPut_mem _ _ _ _ hz with rfl | hz
        · exact Nat.lt_of_le_of_ne (Nat.not_lt.1 hlt) fun h => hne h.symm
        · exact hx z hz

theorem cellsRising_drop (cs : List Host.Cell) (k : Nat) (h : cellsRising cs = true) :
    cellsRising (cellsDrop cs k) = true := by
  rw [cellsRising_iff] at h ⊢
  induction cs with
  | nil => simp [cellsDrop]
  | cons x rest ih =>
    obtain ⟨hx, hr⟩ := List.pairwise_cons.1 h
    simp only [cellsDrop]
    split
    · exact ih hr
    · exact List.pairwise_cons.2 ⟨fun z hz => hx z (cellsDrop_mem _ _ _ hz), ih hr⟩

/-! ### Stores -/

@[simp] theorem Memory.write_size (m : Memory) (k : Nat) (v : Byte) : (m.write k v).size = m.size := by
  unfold Memory.write; split <;> rfl

@[simp] theorem Memory.write_blank (m : Memory) (k : Nat) (v : Byte) : (m.write k v).blank = m.blank := by
  unfold Memory.write; split <;> rfl

/-- A read after a write: the byte written at its offset, every other byte as before. -/
@[simp] theorem Memory.read_write (m : Memory) (id : StoreId) (k j : Nat) (v : Byte) :
    (m.write k v).read id j = if j = k then v else m.read id j := by
  unfold Memory.write
  split
  · next h =>
    obtain ⟨hb, rfl⟩ := h
    by_cases hj : j = k <;> simp [Memory.read, cellsGet_drop, hj, hb, Blank.byte]
  · by_cases hj : j = k <;> simp [Memory.read, cellsGet_put, hj]

theorem Memory.wf_iff (m : Memory) : m.wf = true ↔
    cellsRising m.cells = true ∧ (∀ p ∈ m.cells, p.1 < m.size) ∧
      (m.blank = .unspecified ∨ ∀ p ∈ m.cells, p.2 ≠ 0x00#8) := by
  simp [Memory.wf, and_assoc]

/-- Writing inside a store keeps its canonical form. -/
theorem Memory.write_wf (m : Memory) (k : Nat) (v : Byte) (h : m.wf = true) (hk : k < m.size) :
    (m.write k v).wf = true := by
  obtain ⟨hr, hs, hz⟩ := m.wf_iff.1 h
  unfold Memory.write
  split
  · next hb =>
    rw [Memory.wf_iff]
    exact ⟨cellsRising_drop _ _ hr, fun p hp => hs p (cellsDrop_mem _ _ _ hp),
      hz.imp_right fun hz p hp => hz p (cellsDrop_mem _ _ _ hp)⟩
  · next hb =>
    rw [Memory.wf_iff]
    refine ⟨cellsRising_put _ _ _ hr, fun p hp => ?_, ?_⟩
    · rcases cellsPut_mem _ _ _ _ hp with rfl | hp
      · exact hk
      · exact hs p hp
    · cases hblank : m.blank with
      | unspecified => exact .inl rfl
      | zero =>
        refine .inr fun p hp => ?_
        rcases cellsPut_mem _ _ _ _ hp with rfl | hp
        · exact fun hv => hb ⟨hblank, hv⟩
        · exact hz.resolve_left (by simp [hblank]) p hp

@[simp] theorem Memory.zeros_size (n : Nat) : (Memory.zeros n).size = n := rfl
@[simp] theorem Memory.zeros_blank (n : Nat) : (Memory.zeros n).blank = .zero := rfl
@[simp] theorem Memory.zeros_wf (n : Nat) : (Memory.zeros n).wf = true := rfl
@[simp] theorem Memory.zeros_read (n : Nat) (id : StoreId) (k : Nat) : (Memory.zeros n).read id k = 0x00#8 := rfl
@[simp] theorem Memory.unspecified_size (n : Nat) : (Memory.unspecified n).size = n := rfl
@[simp] theorem Memory.unspecified_wf (n : Nat) : (Memory.unspecified n).wf = true := rfl
@[simp] theorem Memory.unspecified_read (n : Nat) (id : StoreId) (k : Nat) :
    (Memory.unspecified n).read id k = Config.unspecifiedByte id k := rfl
@[simp] theorem Image.memory_size (img : Image) : img.memory.size = img.len := rfl
@[simp] theorem Image.memory_blank (img : Image) : img.memory.blank = .zero := rfl

/-- Every store of the reset state is in canonical form. -/
theorem State.reset_canonical (id : StoreId) : (State.reset.memory id).wf = true := by cases id <;> rfl

/-- Two canonical lists of bytes that hold the same bytes are the same list. -/
theorem cellsGet_ext (cs ds : List Host.Cell) (hc : cellsRising cs = true) (hd : cellsRising ds = true)
    (h : ∀ k, cellsGet cs k = cellsGet ds k) : cs = ds := by
  have low : ∀ (es : List Host.Cell) (k : Nat), (∀ y ∈ es, k < y.1) → cellsGet es k = none := by
    intro es k hk
    induction es with
    | nil => rfl
    | cons y rest ih =>
      rw [cellsGet, if_neg (Nat.ne_of_lt (hk y (List.mem_cons_self ..))), ih fun z hz => hk z (List.mem_cons_of_mem _ hz)]
  rw [cellsRising_iff] at hc hd
  induction cs generalizing ds with
  | nil =>
    cases ds with
    | nil => rfl
    | cons y rest => simpa [cellsGet] using h y.1
  | cons x xs ih =>
    cases ds with
    | nil => simpa [cellsGet] using h x.1
    | cons y ys =>
      obtain ⟨hx, hxs⟩ := List.pairwise_cons.1 hc
      obtain ⟨hy, hys⟩ := List.pairwise_cons.1 hd
      have hxy : x.1 = y.1 := by
        rcases Nat.lt_trichotomy x.1 y.1 with hl | he | hl
        · have := h x.1
          rw [low (y :: ys) x.1 (by
            intro z hz
            rcases List.mem_cons.1 hz with rfl | hz
            · exact hl
            · exact Nat.lt_trans hl (hy z hz))] at this
          simp [cellsGet] at this
        · exact he
        · have := h y.1
          rw [low (x :: xs) y.1 (by
            intro z hz
            rcases List.mem_cons.1 hz with rfl | hz
            · exact hl
            · exact Nat.lt_trans hl (hx z hz))] at this
          simp [cellsGet] at this
      have hv : x.2 = y.2 := by simpa [cellsGet, hxy] using h x.1
      have hrest : xs = ys := ih ys hxs hys (fun k => by
        by_cases hk : k = x.1
        · rw [low xs k (fun z hz => hk ▸ hx z hz), low ys k (fun z hz => hk ▸ hxy ▸ hy z hz)]
        · have := h k
          simpa [cellsGet, hk, hxy ▸ hk] using this)
      rw [hrest, Prod.ext hxy hv]

theorem cellsGet_mem (cs : List Host.Cell) (k : Nat) (v : Byte) (h : cellsGet cs k = some v) : (k, v) ∈ cs := by
  induction cs with
  | nil => simp [cellsGet] at h
  | cons x rest ih =>
    rw [cellsGet] at h
    split at h
    · next hk =>
      obtain ⟨a, b⟩ := x
      simp only [Option.some.injEq] at h hk
      subst h hk
      exact List.mem_cons_self ..
    · exact List.mem_cons_of_mem _ (ih h)

/-- Equal zero-initialized stores are equal data: canonical stores of one size that read alike are the same. -/
theorem Memory.zero_ext (m n : Memory) (id : StoreId) (hm : m.wf = true) (hn : n.wf = true) (bm : m.blank = .zero)
    (bn : n.blank = .zero) (size : m.size = n.size) (h : ∀ k, m.read id k = n.read id k) : m = n := by
  have nz : ∀ (p : Memory), p.wf = true → p.blank = .zero → ∀ k, cellsGet p.cells k =
      if p.read id k = 0x00#8 then none else some (p.read id k) := by
    intro p hp bp k
    have hz := ((p.wf_iff.1 hp).2.2).resolve_left (by simp [bp])
    unfold Memory.read
    split
    · next v hv => rw [if_neg (hz _ (cellsGet_mem _ _ _ hv)), hv]
    · next hv => simp [bp, Blank.byte, hv]
  have hc : m.cells = n.cells :=
    cellsGet_ext _ _ (m.wf_iff.1 hm).1 (n.wf_iff.1 hn).1 fun k => by rw [nz m hm bm, nz n hn bn, h k]
  cases m; cases n
  simp only at size bm bn hc
  subst size bm bn hc
  rfl

end Sys2Proof.Machine
end

