-- ==== Sys2Proof/Laws/State.lean ====
section
/-! SUPPORT. One lemma per field per update of `State`, so that no proof unfolds a record update. -/

namespace Sys2Proof.Machine

/-! ### `setOverlay` -/

@[simp] theorem State.setOverlay_cfg (s : State) : s.setOverlay.cfg = s.cfg := rfl
@[simp] theorem State.setOverlay_ov (s : State) : s.setOverlay.ov = true := rfl
@[simp] theorem State.setOverlay_boot (s : State) : s.setOverlay.boot = s.boot := rfl
@[simp] theorem State.setOverlay_rom (s : State) : s.setOverlay.rom = s.rom := rfl
@[simp] theorem State.setOverlay_vram (s : State) : s.setOverlay.vram = s.vram := rfl
@[simp] theorem State.setOverlay_eram (s : State) : s.setOverlay.eram = s.eram := rfl
@[simp] theorem State.setOverlay_wram (s : State) : s.setOverlay.wram = s.wram := rfl
@[simp] theorem State.setOverlay_oam (s : State) : s.setOverlay.oam = s.oam := rfl
@[simp] theorem State.setOverlay_hram (s : State) : s.setOverlay.hram = s.hram := rfl
@[simp] theorem State.setOverlay_requests (s : State) : s.setOverlay.requests = s.requests := rfl
@[simp] theorem State.setOverlay_img (s : State) : s.setOverlay.img = s.img := rfl
@[simp] theorem State.setOverlay_rsp (s : State) : s.setOverlay.rsp = s.rsp := rfl
@[simp] theorem State.setOverlay_trace (s : State) : s.setOverlay.trace = s.trace := rfl
@[simp] theorem State.setOverlay_answers (s : State) : s.setOverlay.answers = s.answers := rfl
@[simp] theorem State.setOverlay_draws (s : State) : s.setOverlay.draws = s.draws := rfl
@[simp] theorem State.setOverlay_memory (s : State) (id : StoreId) : s.setOverlay.memory id = s.memory id := by cases id <;> rfl

/-! ### `clearOverlay` -/

@[simp] theorem State.clearOverlay_cfg (s : State) : s.clearOverlay.cfg = s.cfg := rfl
@[simp] theorem State.clearOverlay_ov (s : State) : s.clearOverlay.ov = false := rfl
@[simp] theorem State.clearOverlay_boot (s : State) : s.clearOverlay.boot = s.boot := rfl
@[simp] theorem State.clearOverlay_rom (s : State) : s.clearOverlay.rom = s.rom := rfl
@[simp] theorem State.clearOverlay_vram (s : State) : s.clearOverlay.vram = s.vram := rfl
@[simp] theorem State.clearOverlay_eram (s : State) : s.clearOverlay.eram = s.eram := rfl
@[simp] theorem State.clearOverlay_wram (s : State) : s.clearOverlay.wram = s.wram := rfl
@[simp] theorem State.clearOverlay_oam (s : State) : s.clearOverlay.oam = s.oam := rfl
@[simp] theorem State.clearOverlay_hram (s : State) : s.clearOverlay.hram = s.hram := rfl
@[simp] theorem State.clearOverlay_requests (s : State) : s.clearOverlay.requests = s.requests := rfl
@[simp] theorem State.clearOverlay_img (s : State) : s.clearOverlay.img = s.img := rfl
@[simp] theorem State.clearOverlay_rsp (s : State) : s.clearOverlay.rsp = s.rsp := rfl
@[simp] theorem State.clearOverlay_trace (s : State) : s.clearOverlay.trace = s.trace := rfl
@[simp] theorem State.clearOverlay_answers (s : State) : s.clearOverlay.answers = s.answers := rfl
@[simp] theorem State.clearOverlay_draws (s : State) : s.clearOverlay.draws = s.draws := rfl
@[simp] theorem State.clearOverlay_memory (s : State) (id : StoreId) : s.clearOverlay.memory id = s.memory id := by cases id <;> rfl

/-! ### `emit` -/

@[simp] theorem State.emit_cfg (s : State) (e : Event) : (s.emit e).cfg = s.cfg := rfl
@[simp] theorem State.emit_ov (s : State) (e : Event) : (s.emit e).ov = s.ov := rfl
@[simp] theorem State.emit_boot (s : State) (e : Event) : (s.emit e).boot = s.boot := rfl
@[simp] theorem State.emit_rom (s : State) (e : Event) : (s.emit e).rom = s.rom := rfl
@[simp] theorem State.emit_vram (s : State) (e : Event) : (s.emit e).vram = s.vram := rfl
@[simp] theorem State.emit_eram (s : State) (e : Event) : (s.emit e).eram = s.eram := rfl
@[simp] theorem State.emit_wram (s : State) (e : Event) : (s.emit e).wram = s.wram := rfl
@[simp] theorem State.emit_oam (s : State) (e : Event) : (s.emit e).oam = s.oam := rfl
@[simp] theorem State.emit_hram (s : State) (e : Event) : (s.emit e).hram = s.hram := rfl
@[simp] theorem State.emit_requests (s : State) (e : Event) : (s.emit e).requests = s.requests := rfl
@[simp] theorem State.emit_img (s : State) (e : Event) : (s.emit e).img = s.img := rfl
@[simp] theorem State.emit_rsp (s : State) (e : Event) : (s.emit e).rsp = s.rsp := rfl
@[simp] theorem State.emit_trace (s : State) (e : Event) : (s.emit e).trace = s.trace ++ [e] := rfl
@[simp] theorem State.emit_answers (s : State) (e : Event) : (s.emit e).answers = s.answers := rfl
@[simp] theorem State.emit_draws (s : State) (e : Event) : (s.emit e).draws = s.draws := rfl
@[simp] theorem State.emit_memory (s : State) (e : Event) (id : StoreId) : (s.emit e).memory id = s.memory id := by cases id <;> rfl

/-! ### `takeAnswer` -/

@[simp] theorem State.takeAnswer_cfg (s : State) : s.takeAnswer.cfg = s.cfg := rfl
@[simp] theorem State.takeAnswer_ov (s : State) : s.takeAnswer.ov = s.ov := rfl
@[simp] theorem State.takeAnswer_boot (s : State) : s.takeAnswer.boot = s.boot := rfl
@[simp] theorem State.takeAnswer_rom (s : State) : s.takeAnswer.rom = s.rom := rfl
@[simp] theorem State.takeAnswer_vram (s : State) : s.takeAnswer.vram = s.vram := rfl
@[simp] theorem State.takeAnswer_eram (s : State) : s.takeAnswer.eram = s.eram := rfl
@[simp] theorem State.takeAnswer_wram (s : State) : s.takeAnswer.wram = s.wram := rfl
@[simp] theorem State.takeAnswer_oam (s : State) : s.takeAnswer.oam = s.oam := rfl
@[simp] theorem State.takeAnswer_hram (s : State) : s.takeAnswer.hram = s.hram := rfl
@[simp] theorem State.takeAnswer_requests (s : State) : s.takeAnswer.requests = s.requests := rfl
@[simp] theorem State.takeAnswer_img (s : State) : s.takeAnswer.img = s.img := rfl
@[simp] theorem State.takeAnswer_rsp (s : State) : s.takeAnswer.rsp = s.rsp := rfl
@[simp] theorem State.takeAnswer_trace (s : State) : s.takeAnswer.trace = s.trace := rfl
@[simp] theorem State.takeAnswer_answers (s : State) : s.takeAnswer.answers = s.answers.tail := rfl
@[simp] theorem State.takeAnswer_draws (s : State) : s.takeAnswer.draws = s.draws + 1 := rfl
@[simp] theorem State.takeAnswer_memory (s : State) (id : StoreId) : s.takeAnswer.memory id = s.memory id := by cases id <;> rfl

/-! ### `draw` -/

@[simp] theorem State.draw_cfg (s : State) : s.draw.cfg = s.cfg := rfl
@[simp] theorem State.draw_ov (s : State) : s.draw.ov = s.ov := rfl
@[simp] theorem State.draw_boot (s : State) : s.draw.boot = s.boot := rfl
@[simp] theorem State.draw_rom (s : State) : s.draw.rom = s.rom := rfl
@[simp] theorem State.draw_vram (s : State) : s.draw.vram = s.vram := rfl
@[simp] theorem State.draw_eram (s : State) : s.draw.eram = s.eram := rfl
@[simp] theorem State.draw_wram (s : State) : s.draw.wram = s.wram := rfl
@[simp] theorem State.draw_oam (s : State) : s.draw.oam = s.oam := rfl
@[simp] theorem State.draw_hram (s : State) : s.draw.hram = s.hram := rfl
@[simp] theorem State.draw_requests (s : State) : s.draw.requests = s.requests := rfl
@[simp] theorem State.draw_img (s : State) : s.draw.img = s.img := rfl
@[simp] theorem State.draw_rsp (s : State) : s.draw.rsp = s.rsp := rfl
@[simp] theorem State.draw_trace (s : State) : s.draw.trace = s.trace := rfl
@[simp] theorem State.draw_answers (s : State) : s.draw.answers = s.answers := rfl
@[simp] theorem State.draw_draws (s : State) : s.draw.draws = s.draws + 1 := rfl
@[simp] theorem State.draw_memory (s : State) (id : StoreId) : s.draw.memory id = s.memory id := by cases id <;> rfl

/-! ### `returnNothing` -/

@[simp] theorem State.returnNothing_cfg (s : State) : s.returnNothing.cfg = s.cfg := rfl
@[simp] theorem State.returnNothing_ov (s : State) : s.returnNothing.ov = s.ov := rfl
@[simp] theorem State.returnNothing_boot (s : State) : s.returnNothing.boot = s.boot := rfl
@[simp] theorem State.returnNothing_rom (s : State) : s.returnNothing.rom = s.rom := rfl
@[simp] theorem State.returnNothing_vram (s : State) : s.returnNothing.vram = s.vram := rfl
@[simp] theorem State.returnNothing_eram (s : State) : s.returnNothing.eram = s.eram := rfl
@[simp] theorem State.returnNothing_wram (s : State) : s.returnNothing.wram = s.wram := rfl
@[simp] theorem State.returnNothing_oam (s : State) : s.returnNothing.oam = s.oam := rfl
@[simp] theorem State.returnNothing_hram (s : State) : s.returnNothing.hram = s.hram := rfl
@[simp] theorem State.returnNothing_requests (s : State) : s.returnNothing.requests = s.requests := rfl
@[simp] theorem State.returnNothing_img (s : State) : s.returnNothing.img = s.img := rfl
@[simp] theorem State.returnNothing_rsp (s : State) : s.returnNothing.rsp = none := rfl
@[simp] theorem State.returnNothing_trace (s : State) : s.returnNothing.trace = s.trace := rfl
@[simp] theorem State.returnNothing_answers (s : State) : s.returnNothing.answers = s.answers := rfl
@[simp] theorem State.returnNothing_draws (s : State) : s.returnNothing.draws = s.draws := rfl
@[simp] theorem State.returnNothing_memory (s : State) (id : StoreId) : s.returnNothing.memory id = s.memory id := by cases id <;> rfl

/-! ### `returnWord` -/

@[simp] theorem State.returnWord_cfg (s : State) (w : Word) : (s.returnWord w).cfg = s.cfg := rfl
@[simp] theorem State.returnWord_ov (s : State) (w : Word) : (s.returnWord w).ov = s.ov := rfl
@[simp] theorem State.returnWord_boot (s : State) (w : Word) : (s.returnWord w).boot = s.boot := rfl
@[simp] theorem State.returnWord_rom (s : State) (w : Word) : (s.returnWord w).rom = s.rom := rfl
@[simp] theorem State.returnWord_vram (s : State) (w : Word) : (s.returnWord w).vram = s.vram := rfl
@[simp] theorem State.returnWord_eram (s : State) (w : Word) : (s.returnWord w).eram = s.eram := rfl
@[simp] theorem State.returnWord_wram (s : State) (w : Word) : (s.returnWord w).wram = s.wram := rfl
@[simp] theorem State.returnWord_oam (s : State) (w : Word) : (s.returnWord w).oam = s.oam := rfl
@[simp] theorem State.returnWord_hram (s : State) (w : Word) : (s.returnWord w).hram = s.hram := rfl
@[simp] theorem State.returnWord_requests (s : State) (w : Word) : (s.returnWord w).requests = s.requests := rfl
@[simp] theorem State.returnWord_img (s : State) (w : Word) : (s.returnWord w).img = s.img := rfl
@[simp] theorem State.returnWord_rsp (s : State) (w : Word) : (s.returnWord w).rsp = some w := rfl
@[simp] theorem State.returnWord_trace (s : State) (w : Word) : (s.returnWord w).trace = s.trace := rfl
@[simp] theorem State.returnWord_answers (s : State) (w : Word) : (s.returnWord w).answers = s.answers := rfl
@[simp] theorem State.returnWord_draws (s : State) (w : Word) : (s.returnWord w).draws = s.draws := rfl
@[simp] theorem State.returnWord_memory (s : State) (w : Word) (id : StoreId) : (s.returnWord w).memory id = s.memory id := by cases id <;> rfl

/-! ### `issue` -/

@[simp] theorem State.issue_cfg (s : State) (r : Request) (rest : List Request) : (s.issue r rest).cfg = s.cfg := rfl
@[simp] theorem State.issue_ov (s : State) (r : Request) (rest : List Request) : (s.issue r rest).ov = s.ov := rfl
@[simp] theorem State.issue_boot (s : State) (r : Request) (rest : List Request) : (s.issue r rest).boot = s.boot := rfl
@[simp] theorem State.issue_rom (s : State) (r : Request) (rest : List Request) : (s.issue r rest).rom = s.rom := rfl
@[simp] theorem State.issue_vram (s : State) (r : Request) (rest : List Request) : (s.issue r rest).vram = s.vram := rfl
@[simp] theorem State.issue_eram (s : State) (r : Request) (rest : List Request) : (s.issue r rest).eram = s.eram := rfl
@[simp] theorem State.issue_wram (s : State) (r : Request) (rest : List Request) : (s.issue r rest).wram = s.wram := rfl
@[simp] theorem State.issue_oam (s : State) (r : Request) (rest : List Request) : (s.issue r rest).oam = s.oam := rfl
@[simp] theorem State.issue_hram (s : State) (r : Request) (rest : List Request) : (s.issue r rest).hram = s.hram := rfl
@[simp] theorem State.issue_requests (s : State) (r : Request) (rest : List Request) : (s.issue r rest).requests = rest := rfl
@[simp] theorem State.issue_img (s : State) (r : Request) (rest : List Request) : (s.issue r rest).img = r.img := rfl
@[simp] theorem State.issue_rsp (s : State) (r : Request) (rest : List Request) : (s.issue r rest).rsp = s.rsp := rfl
@[simp] theorem State.issue_trace (s : State) (r : Request) (rest : List Request) : (s.issue r rest).trace = s.trace := rfl
@[simp] theorem State.issue_answers (s : State) (r : Request) (rest : List Request) : (s.issue r rest).answers = s.answers := rfl
@[simp] theorem State.issue_draws (s : State) (r : Request) (rest : List Request) : (s.issue r rest).draws = s.draws := rfl
@[simp] theorem State.issue_memory (s : State) (r : Request) (rest : List Request) (id : StoreId) : (s.issue r rest).memory id = s.memory id := by cases id <;> rfl

/-! ### `setMemory` -/

@[simp] theorem State.setMemory_cfg (s : State) (id : StoreId) (m : Memory) : (s.setMemory id m).cfg = s.cfg := by
  cases id <;> rfl
@[simp] theorem State.setMemory_ov (s : State) (id : StoreId) (m : Memory) : (s.setMemory id m).ov = s.ov := by
  cases id <;> rfl
@[simp] theorem State.setMemory_boot (s : State) (id : StoreId) (m : Memory) :
    (s.setMemory id m).boot = if id = .boot then m else s.boot := by cases id <;> rfl
@[simp] theorem State.setMemory_rom (s : State) (id : StoreId) (m : Memory) :
    (s.setMemory id m).rom = if id = .rom then m else s.rom := by cases id <;> rfl
@[simp] theorem State.setMemory_vram (s : State) (id : StoreId) (m : Memory) :
    (s.setMemory id m).vram = if id = .vram then m else s.vram := by cases id <;> rfl
@[simp] theorem State.setMemory_eram (s : State) (id : StoreId) (m : Memory) :
    (s.setMemory id m).eram = if id = .eram then m else s.eram := by cases id <;> rfl
@[simp] theorem State.setMemory_wram (s : State) (id : StoreId) (m : Memory) :
    (s.setMemory id m).wram = if id = .wram then m else s.wram := by cases id <;> rfl
@[simp] theorem State.setMemory_oam (s : State) (id : StoreId) (m : Memory) :
    (s.setMemory id m).oam = if id = .oam then m else s.oam := by cases id <;> rfl
@[simp] theorem State.setMemory_hram (s : State) (id : StoreId) (m : Memory) :
    (s.setMemory id m).hram = if id = .hram then m else s.hram := by cases id <;> rfl
@[simp] theorem State.setMemory_requests (s : State) (id : StoreId) (m : Memory) : (s.setMemory id m).requests = s.requests := by
  cases id <;> rfl
@[simp] theorem State.setMemory_img (s : State) (id : StoreId) (m : Memory) : (s.setMemory id m).img = s.img := by
  cases id <;> rfl
@[simp] theorem State.setMemory_rsp (s : State) (id : StoreId) (m : Memory) : (s.setMemory id m).rsp = s.rsp := by
  cases id <;> rfl
@[simp] theorem State.setMemory_trace (s : State) (id : StoreId) (m : Memory) : (s.setMemory id m).trace = s.trace := by
  cases id <;> rfl
@[simp] theorem State.setMemory_answers (s : State) (id : StoreId) (m : Memory) : (s.setMemory id m).answers = s.answers := by
  cases id <;> rfl
@[simp] theorem State.setMemory_draws (s : State) (id : StoreId) (m : Memory) : (s.setMemory id m).draws = s.draws := by
  cases id <;> rfl
@[simp] theorem State.setMemory_memory (s : State) (id j : StoreId) (m : Memory) :
    (s.setMemory id m).memory j = if j = id then m else s.memory j := by cases id <;> cases j <;> rfl

/-! ### `memory` of a named store -/

@[simp] theorem State.memory_boot (s : State) : s.memory .boot = s.boot := rfl
@[simp] theorem State.memory_rom (s : State) : s.memory .rom = s.rom := rfl
@[simp] theorem State.memory_vram (s : State) : s.memory .vram = s.vram := rfl
@[simp] theorem State.memory_eram (s : State) : s.memory .eram = s.eram := rfl
@[simp] theorem State.memory_wram (s : State) : s.memory .wram = s.wram := rfl
@[simp] theorem State.memory_oam (s : State) : s.memory .oam = s.oam := rfl
@[simp] theorem State.memory_hram (s : State) : s.memory .hram = s.hram := rfl

/-- Two states with the same fields are the same, the seven stores taken together. -/
theorem State.ext_memory {s t : State} (cfg : s.cfg = t.cfg) (ov : s.ov = t.ov) (mem : ∀ id, s.memory id = t.memory id)
    (requests : s.requests = t.requests) (img : s.img = t.img) (rsp : s.rsp = t.rsp) (trace : s.trace = t.trace)
    (answers : s.answers = t.answers) (draws : s.draws = t.draws) : s = t := by
  have h1 := mem .boot; have h2 := mem .rom; have h3 := mem .vram; have h4 := mem .eram; have h5 := mem .wram
  have h6 := mem .oam; have h7 := mem .hram
  cases s; cases t
  simp only [State.memory] at h1 h2 h3 h4 h5 h6 h7
  simp only at cfg ov requests img rsp trace answers draws
  subst cfg ov h1 h2 h3 h4 h5 h6 h7 requests img rsp trace answers draws
  rfl

end Sys2Proof.Machine
end

