-- ==== Sys2Proof/Laws/Ops.lean ====
section
/-! SUPPORT. What the shared operations of Machine/Ops.lean can do, said once for each. -/

namespace Sys2Proof.Machine

/-! ### Pokes -/

@[simp] theorem State.poke_cfg (s : State) (id : StoreId) (k : Nat) (v : Byte) : (s.poke id k v).cfg = s.cfg := by
  simp [State.poke]
@[simp] theorem State.poke_ov (s : State) (id : StoreId) (k : Nat) (v : Byte) : (s.poke id k v).ov = s.ov := by
  simp [State.poke]
@[simp] theorem State.poke_requests (s : State) (id : StoreId) (k : Nat) (v : Byte) : (s.poke id k v).requests = s.requests := by
  simp [State.poke]
@[simp] theorem State.poke_img (s : State) (id : StoreId) (k : Nat) (v : Byte) : (s.poke id k v).img = s.img := by
  simp [State.poke]
@[simp] theorem State.poke_rsp (s : State) (id : StoreId) (k : Nat) (v : Byte) : (s.poke id k v).rsp = s.rsp := by
  simp [State.poke]
@[simp] theorem State.poke_trace (s : State) (id : StoreId) (k : Nat) (v : Byte) : (s.poke id k v).trace = s.trace := by
  simp [State.poke]
@[simp] theorem State.poke_answers (s : State) (id : StoreId) (k : Nat) (v : Byte) : (s.poke id k v).answers = s.answers := by
  simp [State.poke]
@[simp] theorem State.poke_draws (s : State) (id : StoreId) (k : Nat) (v : Byte) : (s.poke id k v).draws = s.draws := by
  simp [State.poke]
@[simp] theorem State.poke_memory (s : State) (id j : StoreId) (k : Nat) (v : Byte) :
    (s.poke id k v).memory j = if j = id then (s.memory id).write k v else s.memory j := by simp [State.poke]

/-- A poke changes the one byte it names. -/
@[simp] theorem State.poke_peek (s : State) (id j : StoreId) (k n : Nat) (v : Byte) :
    (s.poke id k v).peek j n = if j = id ∧ n = k then v else s.peek j n := by
  by_cases h : j = id
  · subst h; simp [State.peek]
  · simp [State.peek, h]

/-! ### Byte reads -/

/-- Everything a byte read can do: it leaves the state as it was, or it is one read event (R57). -/
theorem readDest_cases (d : Dest) (a : Addr) (s : State) : (readDest d a s).2 = s ∨ ∃ e, readDest d a s = s.ask e := by
  cases d <;> first | exact .inl rfl | exact .inr ⟨_, rfl⟩

theorem readByte_cases (a : Addr) (s : State) : (readByte a s).2 = s ∨ ∃ e, readByte a s = s.ask e :=
  readDest_cases _ a s

@[simp] theorem readDest_cfg (d : Dest) (a : Addr) (s : State) : (readDest d a s).2.cfg = s.cfg := by
  rcases readDest_cases d a s with h | ⟨e, h⟩ <;> simp [h, State.ask]
@[simp] theorem readDest_ov (d : Dest) (a : Addr) (s : State) : (readDest d a s).2.ov = s.ov := by
  rcases readDest_cases d a s with h | ⟨e, h⟩ <;> simp [h, State.ask]
@[simp] theorem readDest_requests (d : Dest) (a : Addr) (s : State) : (readDest d a s).2.requests = s.requests := by
  rcases readDest_cases d a s with h | ⟨e, h⟩ <;> simp [h, State.ask]
@[simp] theorem readDest_img (d : Dest) (a : Addr) (s : State) : (readDest d a s).2.img = s.img := by
  rcases readDest_cases d a s with h | ⟨e, h⟩ <;> simp [h, State.ask]
@[simp] theorem readDest_rsp (d : Dest) (a : Addr) (s : State) : (readDest d a s).2.rsp = s.rsp := by
  rcases readDest_cases d a s with h | ⟨e, h⟩ <;> simp [h, State.ask]
@[simp] theorem readDest_memory (d : Dest) (a : Addr) (s : State) (id : StoreId) : (readDest d a s).2.memory id = s.memory id := by
  rcases readDest_cases d a s with h | ⟨e, h⟩ <;> simp [h, State.ask]

@[simp] theorem readByte_cfg (a : Addr) (s : State) : (readByte a s).2.cfg = s.cfg := by
  rcases readByte_cases a s with h | ⟨e, h⟩ <;> simp [h, State.ask]
@[simp] theorem readByte_ov (a : Addr) (s : State) : (readByte a s).2.ov = s.ov := by
  rcases readByte_cases a s with h | ⟨e, h⟩ <;> simp [h, State.ask]
@[simp] theorem readByte_requests (a : Addr) (s : State) : (readByte a s).2.requests = s.requests := by
  rcases readByte_cases a s with h | ⟨e, h⟩ <;> simp [h, State.ask]
@[simp] theorem readByte_img (a : Addr) (s : State) : (readByte a s).2.img = s.img := by
  rcases readByte_cases a s with h | ⟨e, h⟩ <;> simp [h, State.ask]
@[simp] theorem readByte_rsp (a : Addr) (s : State) : (readByte a s).2.rsp = s.rsp := by
  rcases readByte_cases a s with h | ⟨e, h⟩ <;> simp [h, State.ask]
@[simp] theorem readByte_memory (a : Addr) (s : State) (id : StoreId) : (readByte a s).2.memory id = s.memory id := by
  rcases readByte_cases a s with h | ⟨e, h⟩ <;> simp [h, State.ask]

/-! ### The DMA transfer -/

@[simp] theorem dmaUpTo_cfg (v : Byte) (n : Nat) (s : State) : (dmaUpTo v n s).cfg = s.cfg := by
  induction n with
  | zero => rfl
  | succ n ih => simp [dmaUpTo, dmaStep, ih]
@[simp] theorem dmaUpTo_ov (v : Byte) (n : Nat) (s : State) : (dmaUpTo v n s).ov = s.ov := by
  induction n with
  | zero => rfl
  | succ n ih => simp [dmaUpTo, dmaStep, ih]
@[simp] theorem dmaUpTo_requests (v : Byte) (n : Nat) (s : State) : (dmaUpTo v n s).requests = s.requests := by
  induction n with
  | zero => rfl
  | succ n ih => simp [dmaUpTo, dmaStep, ih]
@[simp] theorem dmaUpTo_img (v : Byte) (n : Nat) (s : State) : (dmaUpTo v n s).img = s.img := by
  induction n with
  | zero => rfl
  | succ n ih => simp [dmaUpTo, dmaStep, ih]
@[simp] theorem dmaUpTo_rsp (v : Byte) (n : Nat) (s : State) : (dmaUpTo v n s).rsp = s.rsp := by
  induction n with
  | zero => rfl
  | succ n ih => simp [dmaUpTo, dmaStep, ih]

/-- A transfer writes `oam` and no other store (R190, R196). -/
theorem dmaUpTo_memory (v : Byte) (n : Nat) (s : State) (id : StoreId) (h : id ≠ .oam) :
    (dmaUpTo v n s).memory id = s.memory id := by
  induction n with
  | zero => rfl
  | succ n ih => simp [dmaUpTo, dmaStep, ih, h]

/-- A transfer keeps the size, the unlisted value and the canonical form of `oam`. -/
theorem dmaUpTo_oam (v : Byte) (n : Nat) (s : State) :
    (dmaUpTo v n s).oam.size = s.oam.size ∧ (dmaUpTo v n s).oam.blank = s.oam.blank ∧
      (n ≤ s.oam.size → s.oam.wf = true → (dmaUpTo v n s).oam.wf = true) := by
  induction n with
  | zero => exact ⟨rfl, rfl, fun _ h => h⟩
  | succ n ih =>
    obtain ⟨h1, h2, h3⟩ := ih
    have e : (dmaUpTo v (n + 1) s).oam = (dmaUpTo v n s).oam.write n (readByte (dmaRead v n) (dmaUpTo v n s)).1 := by
      have h := State.poke_memory (readByte (dmaRead v n) (dmaUpTo v n s)).2 .oam .oam n
        (readByte (dmaRead v n) (dmaUpTo v n s)).1
      rw [if_pos rfl, readByte_memory] at h
      exact h
    rw [e]
    refine ⟨by simpa using h1, by simpa using h2, fun hn hw => ?_⟩
    exact Memory.write_wf _ _ _ (h3 (by omega) hw) (by omega)

/-! ### Byte writes -/

@[simp] theorem writeDest_cfg (d : Dest) (a : Addr) (v : Byte) (s : State) : (writeDest d a v s).cfg = s.cfg := by
  cases d <;> simp [writeDest, dma]
  split <;> simp
@[simp] theorem writeByte_cfg (a : Addr) (v : Byte) (s : State) : (writeByte a v s).cfg = s.cfg := by simp [writeByte]
@[simp] theorem writeDest_ov (d : Dest) (a : Addr) (v : Byte) (s : State) : (writeDest d a v s).ov = s.ov := by
  cases d <;> simp [writeDest, dma]
  split <;> simp
@[simp] theorem writeByte_ov (a : Addr) (v : Byte) (s : State) : (writeByte a v s).ov = s.ov := by simp [writeByte]
@[simp] theorem writeDest_requests (d : Dest) (a : Addr) (v : Byte) (s : State) : (writeDest d a v s).requests = s.requests := by
  cases d <;> simp [writeDest, dma]
  split <;> simp
@[simp] theorem writeByte_requests (a : Addr) (v : Byte) (s : State) : (writeByte a v s).requests = s.requests := by simp [writeByte]
@[simp] theorem writeDest_img (d : Dest) (a : Addr) (v : Byte) (s : State) : (writeDest d a v s).img = s.img := by
  cases d <;> simp [writeDest, dma]
  split <;> simp
@[simp] theorem writeByte_img (a : Addr) (v : Byte) (s : State) : (writeByte a v s).img = s.img := by simp [writeByte]
@[simp] theorem writeDest_rsp (d : Dest) (a : Addr) (v : Byte) (s : State) : (writeDest d a v s).rsp = s.rsp := by
  cases d <;> simp [writeDest, dma]
  split <;> simp
@[simp] theorem writeByte_rsp (a : Addr) (v : Byte) (s : State) : (writeByte a v s).rsp = s.rsp := by simp [writeByte]

/-- No byte write changes the boot overlay or the program image (R161, R162). -/
theorem writeDest_readOnly (d : Dest) (a : Addr) (v : Byte) (s : State) (id : StoreId) (h : id = .boot ∨ id = .rom) :
    (writeDest d a v s).memory id = s.memory id := by
  have ho : id ≠ .oam := by rcases h with rfl | rfl <;> decide
  cases d with
  | vram o => simp only [writeDest]; split <;> rcases h with rfl | rfl <;> simp [State.poke]
  | dma => exact dmaUpTo_memory v _ s id ho
  | _ => rcases h with rfl | rfl <;> simp [writeDest, State.poke]

/-- The offset a destination carries lies inside the store it names. -/
def destInside (d : Dest) (s : State) : Prop :=
  match d with
  | .boot o => o.toNat < s.boot.size
  | .rom o => o.toNat < s.rom.size
  | .vram o => o.toNat < s.vram.size
  | .eram o => o.toNat < s.eram.size
  | .wram o => o.toNat < s.wram.size
  | .oam o => o.toNat < s.oam.size
  | .hram o => o.toNat < s.hram.size
  | .dma => dmaLen ≤ s.oam.size
  | _ => True

/-- A byte write inside a store keeps every store's canonical form, size and unlisted value. -/
theorem writeDest_store (d : Dest) (a : Addr) (v : Byte) (s : State) (h : destInside d s) (id : StoreId) :
    ((writeDest d a v s).memory id).size = (s.memory id).size ∧
    ((writeDest d a v s).memory id).blank = (s.memory id).blank ∧
    ((s.memory id).wf = true → ((writeDest d a v s).memory id).wf = true) := by
  have poke : ∀ (j : StoreId) (k : Nat), (k < (s.memory j).size) →
      ((s.poke j k v).memory id).size = (s.memory id).size ∧ ((s.poke j k v).memory id).blank = (s.memory id).blank ∧
      ((s.memory id).wf = true → ((s.poke j k v).memory id).wf = true) := by
    intro j k hk
    by_cases hj : id = j
    · subst hj
      rw [State.poke_memory, if_pos rfl]
      exact ⟨Memory.write_size .., Memory.write_blank .., fun hw => Memory.write_wf _ _ _ hw hk⟩
    · rw [State.poke_memory, if_neg hj]
      exact ⟨rfl, rfl, fun hw => hw⟩
  cases d with
  | vram o =>
    simp only [writeDest]
    split
    · exact poke .vram o.toNat h
    · exact poke .vram o.toNat h
  | eram o => exact poke .eram o.toNat h
  | wram o => exact poke .wram o.toNat h
  | hram o => exact poke .hram o.toNat h
  | oam o => exact poke .oam o.toNat h
  | dma =>
    by_cases hid : id = .oam
    · subst hid
      obtain ⟨h1, h2, h3⟩ := dmaUpTo_oam v dmaLen s
      exact ⟨h1, h2, h3 h⟩
    · have e := dmaUpTo_memory v dmaLen s id hid
      unfold writeDest dma
      rw [e]
      exact ⟨rfl, rfl, fun hw => hw⟩
  | _ => exact ⟨rfl, rfl, fun hw => hw⟩

/-! ### Decoding a byte operation -/

/-- The meaning of every `RDB` row, over the shared read. -/
theorem exec_rdbRow (e : Entry) (a : Addr) (s : State) :
    exec (rdbRow e a) s = .next (returnByte (readDest (entryDest s.ov e a) (entryAddr s.cfg e a) s)) := by
  cases e <;> rfl

/-- The meaning of every `WRB` row, over the shared write. -/
theorem exec_wrbRow (e : Entry) (a : Addr) (v : Byte) (s : State) :
    exec (wrbRow e a v) s = .next (writeDest (entryDest s.ov e a) (entryAddr s.cfg e a) v s).returnNothing := by
  cases e <;> rfl

end Sys2Proof.Machine
end

