-- ==== Sys2Proof/Laws/PerInstr.lean ====
section
/-! SUPPORT. Facts of every operation as syntax, one lemma per constructor. -/

/-- The canonical word of an operation uses one of the seven command codes, and every field the operation does not use
is zero (30_encoding.md R82, D4). -/
def Sys2Proof.Laws.CanonicalWord.Statement (i : Sys2Proof.Instr) : Prop :=
  ∀ c, (Sys2Proof.opCmd (Sys2Proof.encode c i)).toNat ≤ 6 ∧
    ((Sys2Proof.opCmd (Sys2Proof.encode c i) = 0x00#8 ∨ Sys2Proof.opCmd (Sys2Proof.encode c i) = 0x02#8) →
      Sys2Proof.opData (Sys2Proof.encode c i) = 0x0000#16) ∧
    (Sys2Proof.opCmd (Sys2Proof.encode c i) = 0x01#8 →
      (Sys2Proof.opData (Sys2Proof.encode c i)).extractLsb' 8 8 = 0x00#8) ∧
    (4 ≤ (Sys2Proof.opCmd (Sys2Proof.encode c i)).toNat →
      Sys2Proof.opAddr (Sys2Proof.encode c i) = 0x0000#16 ∧ Sys2Proof.opData (Sys2Proof.encode c i) = 0x0000#16)

namespace Sys2Proof.Laws.CanonicalWord

theorem rdbIe : Statement (.rdbIe) := by intro c; simp [encode]
theorem rdbHram (a : Addr) : Statement (.rdbHram a) := by intro c; simp [encode]
theorem rdbInput : Statement (.rdbInput) := by intro c; simp [encode]
theorem rdbIf : Statement (.rdbIf) := by intro c; simp [encode]
theorem rdbDma : Statement (.rdbDma) := by intro c; simp [encode]
theorem rdbDcreg (a : Addr) : Statement (.rdbDcreg a) := by intro c; simp [encode]
theorem rdbIozero (a : Addr) : Statement (.rdbIozero a) := by intro c; simp [encode]
theorem rdbOamLo (a : Addr) : Statement (.rdbOamLo a) := by intro c; simp [encode]
theorem rdbOamHi (a : Addr) : Statement (.rdbOamHi a) := by intro c; simp [encode]
theorem rdbUnusable (a : Addr) : Statement (.rdbUnusable a) := by intro c; simp [encode]
theorem rdbWram (a : Addr) : Statement (.rdbWram a) := by intro c; simp [encode]
theorem rdbWramMirror (a : Addr) : Statement (.rdbWramMirror a) := by intro c; simp [encode]
theorem rdbEram (a : Addr) : Statement (.rdbEram a) := by intro c; simp [encode]
theorem rdbVramTileLo (a : Addr) : Statement (.rdbVramTileLo a) := by intro c; simp [encode]
theorem rdbVramTileHi (a : Addr) : Statement (.rdbVramTileHi a) := by intro c; simp [encode]
theorem rdbVramMap (a : Addr) : Statement (.rdbVramMap a) := by intro c; simp [encode]
theorem rdbBoot (a : Addr) : Statement (.rdbBoot a) := by intro c; simp [encode]
theorem rdbRom (a : Addr) : Statement (.rdbRom a) := by intro c; simp [encode]
theorem wrbIe (v : Byte) : Statement (.wrbIe v) := by intro c; simp [encode]
theorem wrbHram (a : Addr) (v : Byte) : Statement (.wrbHram a v) := by intro c; simp [encode]
theorem wrbInput (v : Byte) : Statement (.wrbInput v) := by intro c; simp [encode]
theorem wrbIf (v : Byte) : Statement (.wrbIf v) := by intro c; simp [encode]
theorem wrbDma (v : Byte) : Statement (.wrbDma v) := by intro c; simp [encode]
theorem wrbDcreg (a : Addr) (v : Byte) : Statement (.wrbDcreg a v) := by intro c; simp [encode]
theorem wrbIozero (a : Addr) (v : Byte) : Statement (.wrbIozero a v) := by intro c; simp [encode]
theorem wrbOamLo (a : Addr) (v : Byte) : Statement (.wrbOamLo a v) := by intro c; simp [encode]
theorem wrbOamHi (a : Addr) (v : Byte) : Statement (.wrbOamHi a v) := by intro c; simp [encode]
theorem wrbUnusable (a : Addr) (v : Byte) : Statement (.wrbUnusable a v) := by intro c; simp [encode]
theorem wrbWram (a : Addr) (v : Byte) : Statement (.wrbWram a v) := by intro c; simp [encode]
theorem wrbWramMirror (a : Addr) (v : Byte) : Statement (.wrbWramMirror a v) := by intro c; simp [encode]
theorem wrbEram (a : Addr) (v : Byte) : Statement (.wrbEram a v) := by intro c; simp [encode]
theorem wrbVramTileLo (a : Addr) (v : Byte) : Statement (.wrbVramTileLo a v) := by intro c; simp [encode]
theorem wrbVramTileHi (a : Addr) (v : Byte) : Statement (.wrbVramTileHi a v) := by intro c; simp [encode]
theorem wrbVramMap (a : Addr) (v : Byte) : Statement (.wrbVramMap a v) := by intro c; simp [encode]
theorem wrbBoot (a : Addr) (v : Byte) : Statement (.wrbBoot a v) := by intro c; simp [encode]
theorem wrbRom (a : Addr) (v : Byte) : Statement (.wrbRom a v) := by intro c; simp [encode]
theorem rdw (a : Addr) : Statement (.rdw a) := by intro c; simp [encode]
theorem wrw (a : Addr) (w : Word) : Statement (.wrw a w) := by intro c; simp [encode]
theorem load : Statement .load := by intro c; simp [encode]
theorem reset : Statement .reset := by intro c; simp [encode]
theorem bootoff : Statement .bootoff := by intro c; simp [encode]

end Sys2Proof.Laws.CanonicalWord
end

