-- ==== Sys2Proof/Laws/Step.lean ====
section
/-! SUPPORT. What one step can do, said once: the word operations' frame, and the inversion of `step`. -/

namespace Sys2Proof.Machine

/-! ### Words -/

/-- A word read is one of its two orders, perhaps after a free draw (R200, D14). -/
theorem readWord_cases (a : Addr) (s : State) :
    readWord a s = readWordLowFirst a s ∨ readWord a s = readWordHighFirst a s ∨
    readWord a s = readWordLowFirst a s.draw ∨ readWord a s = readWordHighFirst a s.draw := by
  unfold readWord
  split
  · exact .inl rfl
  · exact .inr (.inl rfl)
  · split
    · exact .inr (.inr (.inl rfl))
    · exact .inr (.inr (.inr rfl))

/-- A word read leaves the router as it was (R57, R200). -/
theorem readWord_frame (a : Addr) (s : State) :
    (readWord a s).cfg = s.cfg ∧ (readWord a s).ov = s.ov ∧ (readWord a s).requests = s.requests ∧
    (readWord a s).img = s.img ∧ ∀ id, (readWord a s).memory id = s.memory id := by
  rcases readWord_cases a s with h | h | h | h <;> rw [h] <;> simp [readWordLowFirst, readWordHighFirst]

/-- A word write leaves the flag, the parameters and the ports as they were (R201). -/
theorem writeWord_frame (a : Addr) (w : Word) (s : State) :
    (writeWord a w s).cfg = s.cfg ∧ (writeWord a w s).ov = s.ov ∧ (writeWord a w s).requests = s.requests ∧
    (writeWord a w s).img = s.img := by simp [writeWord]

/-! ### Decoding, by command code (R82) -/

theorem decode_rdb (c : Config) (ov : Bool) (w : OpWord) (h : opCmd w = 0x00#8) :
    decode c ov w = decodeByteOp c ov (opAddr w) fun e => rdbRow e (opAddr w) := by simp [decode, h]

theorem decode_wrb (c : Config) (ov : Bool) (w : OpWord) (h : opCmd w = 0x01#8) :
    decode c ov w = decodeByteOp c ov (opAddr w) fun e => wrbRow e (opAddr w) ((opData w).extractLsb' 0 8) := by
  simp [decode, h]

/-- Every way a word can decode. -/
theorem decode_cases (c : Config) (ov : Bool) (w : OpWord) (i : Instr) (h : decode c ov w = .ok i) :
    (opCmd w = 0x00#8 ∧ ∃ e, findEntry c ov (opAddr w) = some e ∧ i = rdbRow e (opAddr w)) ∨
    (opCmd w = 0x01#8 ∧ ∃ e, findEntry c ov (opAddr w) = some e ∧
      i = wrbRow e (opAddr w) ((opData w).extractLsb' 0 8)) ∨
    (opCmd w = 0x02#8 ∧ i = .rdw (opAddr w)) ∨ (opCmd w = 0x03#8 ∧ i = .wrw (opAddr w) (opData w)) ∨
    (opCmd w = 0x04#8 ∧ i = .load) ∨ (opCmd w = 0x05#8 ∧ i = .reset) ∨ (opCmd w = 0x06#8 ∧ i = .bootoff) := by
  by_cases h0 : opCmd w = 0x00#8
  · rw [decode_rdb c ov w h0] at h
    unfold decodeByteOp at h
    split at h
    · next e he => cases h; exact .inl ⟨h0, e, he, rfl⟩
    · cases h
  by_cases h1 : opCmd w = 0x01#8
  · rw [decode_wrb c ov w h1] at h
    unfold decodeByteOp at h
    split at h
    · next e he => cases h; exact .inr (.inl ⟨h1, e, he, rfl⟩)
    · cases h
  unfold decode at h
  rw [if_neg h0, if_neg h1] at h
  by_cases h2 : opCmd w = 0x02#8
  · rw [if_pos h2] at h; cases h; simp [h2]
  by_cases h3 : opCmd w = 0x03#8
  · rw [if_neg h2, if_pos h3] at h; cases h; simp [h3]
  by_cases h4 : opCmd w = 0x04#8
  · rw [if_neg h2, if_neg h3, if_pos h4] at h; cases h; simp [h4]
  by_cases h5 : opCmd w = 0x05#8
  · rw [if_neg h2, if_neg h3, if_neg h4, if_pos h5] at h; cases h; simp [h5]
  by_cases h6 : opCmd w = 0x06#8
  · rw [if_neg h2, if_neg h3, if_neg h4, if_neg h5, if_pos h6] at h; cases h; simp [h6]
  rw [if_neg h2, if_neg h3, if_neg h4, if_neg h5, if_neg h6] at h
  cases h

/-! ### One step -/

/-- The state the head request's operation ends in, by its command code, when a step answers a next state; `u` is the
state in which it runs. -/
inductive Ends (q : Request) (u : State) : State → Prop where
  | rdb (e : Entry) (h : opCmd q.word = 0x00#8) (he : findEntry u.cfg u.ov (opAddr q.word) = some e) :
      Ends q u (returnByte (readDest (entryDest u.ov e (opAddr q.word)) (entryAddr u.cfg e (opAddr q.word)) u))
  | wrb (e : Entry) (h : opCmd q.word = 0x01#8) (he : findEntry u.cfg u.ov (opAddr q.word) = some e) :
      Ends q u (writeDest (entryDest u.ov e (opAddr q.word)) (entryAddr u.cfg e (opAddr q.word))
        ((opData q.word).extractLsb' 0 8) u).returnNothing
  | rdw (h : opCmd q.word = 0x02#8) : Ends q u (readWord (opAddr q.word) u)
  | wrw (h : opCmd q.word = 0x03#8) : Ends q u (writeWord (opAddr q.word) (opData q.word) u).returnNothing
  | load (h : opCmd q.word = 0x04#8) (hl : Config.romMinLen ≤ u.img.len) : Ends q u u.loadImage.returnNothing
  | reset (h : opCmd q.word = 0x05#8) : Ends q u u.setOverlay.zeroRam.returnNothing
  | bootoff (h : opCmd q.word = 0x06#8) : Ends q u u.clearOverlay.returnNothing

/-- Everything a step that answers a next state can do: nothing, with no request on the port, or the whole of the head
request's operation. -/
theorem step_cases (s t : State) (h : step s = .next t) :
    (s.requests = [] ∧ t = s) ∨ ∃ q rest, s.requests = q :: rest ∧ Ends q (s.issue q rest) t := by
  unfold step at h
  split at h
  · next hq => cases h; exact .inl ⟨hq, rfl⟩
  · next q rest hq =>
    refine .inr ⟨q, rest, hq, ?_⟩
    split at h
    · next i hi =>
      rcases decode_cases _ _ _ _ hi with ⟨hc, e, he, rfl⟩ | ⟨hc, e, he, rfl⟩ | ⟨hc, rfl⟩ | ⟨hc, rfl⟩ | ⟨hc, rfl⟩ |
        ⟨hc, rfl⟩ | ⟨hc, rfl⟩
      · rw [exec_rdbRow] at h; cases h; exact .rdb e hc he
      · rw [exec_wrbRow] at h; cases h; exact .wrb e hc he
      · cases h; exact .rdw hc
      · cases h; exact .wrw hc
      · simp only [exec, execLoad] at h
        split at h
        · cases h
        · next hl => cases h; exact .load hc (Nat.le_of_not_lt hl)
      · cases h; exact .reset hc
      · cases h; exact .bootoff hc
    · cases h

end Sys2Proof.Machine
end

