-- ==== Sys2Proof/Tests/Slice0.lean ====
section
/-! SUPPORT. The model's own tests. Words are written out from the encoding of R81, R82 and the opcode table; expected
results are those of 95_test_vectors.md (its vector numbers are in the docstrings); then one witness for the hypotheses
of every statement that has any. -/

open Sys2Proof Sys2Proof.Machine

namespace Sys2Proof.Tests

/-! ### Decoding: words written out from the encoding -/

/-- `RDB` rows 1 to 10 of R94, both ends of their windows. -/
theorem test_decode_rdb_upper :
    decodeTableWord 40 0x00FFFF0000 = some .rdbIe ∧
    decodeTableWord 40 0x00FF800000 = some (.rdbHram 0xFF80#16) ∧
    decodeTableWord 40 0x00FFFE0000 = some (.rdbHram 0xFFFE#16) ∧
    decodeTableWord 40 0x00FF000000 = some .rdbInput ∧
    decodeTableWord 40 0x00FF0F0000 = some .rdbIf ∧
    decodeTableWord 40 0x00FF460000 = some .rdbDma ∧
    decodeTableWord 40 0x00FF400000 = some (.rdbDcreg 0xFF40#16) ∧
    decodeTableWord 40 0x00FF7F0000 = some (.rdbDcreg 0xFF7F#16) ∧
    decodeTableWord 40 0x00FF010000 = some (.rdbIozero 0xFF01#16) ∧
    decodeTableWord 40 0x00FF3F0000 = some (.rdbIozero 0xFF3F#16) ∧
    decodeTableWord 40 0x00FE000000 = some (.rdbOamLo 0xFE00#16) ∧
    decodeTableWord 40 0x00FE7F0000 = some (.rdbOamLo 0xFE7F#16) ∧
    decodeTableWord 40 0x00FE800000 = some (.rdbOamHi 0xFE80#16) ∧
    decodeTableWord 40 0x00FE9F0000 = some (.rdbOamHi 0xFE9F#16) ∧
    decodeTableWord 40 0x00FEA00000 = some (.rdbUnusable 0xFEA0#16) ∧
    decodeTableWord 40 0x00FEFF0000 = some (.rdbUnusable 0xFEFF#16) := by decide

/-- `RDB` rows 11 to 18 of R94. -/
theorem test_decode_rdb_lower :
    decodeTableWord 40 0x00C0000000 = some (.rdbWram 0xC000#16) ∧
    decodeTableWord 40 0x00DFFF0000 = some (.rdbWram 0xDFFF#16) ∧
    decodeTableWord 40 0x00E0000000 = some (.rdbWramMirror 0xE000#16) ∧
    decodeTableWord 40 0x00FDFF0000 = some (.rdbWramMirror 0xFDFF#16) ∧
    decodeTableWord 40 0x00A0000000 = some (.rdbEram 0xA000#16) ∧
    decodeTableWord 40 0x00BFFF0000 = some (.rdbEram 0xBFFF#16) ∧
    decodeTableWord 40 0x0080000000 = some (.rdbVramTileLo 0x8000#16) ∧
    decodeTableWord 40 0x008FFF0000 = some (.rdbVramTileLo 0x8FFF#16) ∧
    decodeTableWord 40 0x0090000000 = some (.rdbVramTileHi 0x9000#16) ∧
    decodeTableWord 40 0x0097FF0000 = some (.rdbVramTileHi 0x97FF#16) ∧
    decodeTableWord 40 0x0098000000 = some (.rdbVramMap 0x9800#16) ∧
    decodeTableWord 40 0x009FFF0000 = some (.rdbVramMap 0x9FFF#16) ∧
    decodeTableWord 40 0x0000000000 = some (.rdbBoot 0x0000#16) ∧
    decodeTableWord 40 0x0000FF0000 = some (.rdbBoot 0x00FF#16) ∧
    decodeTableWord 40 0x0001000000 = some (.rdbRom 0x0100#16) ∧
    decodeTableWord 40 0x007FFF0000 = some (.rdbRom 0x7FFF#16) := by decide

/-- `WRB` rows of R94, with the byte in bits 7:0. -/
theorem test_decode_wrb :
    decodeTableWord 40 0x01FFFF0001 = some (.wrbIe 0x01#8) ∧
    decodeTableWord 40 0x01FFFE00AB = some (.wrbHram 0xFFFE#16 0xAB#8) ∧
    decodeTableWord 40 0x01FF000020 = some (.wrbInput 0x20#8) ∧
    decodeTableWord 40 0x01FF0F0000 = some (.wrbIf 0x00#8) ∧
    decodeTableWord 40 0x01FF4600C0 = some (.wrbDma 0xC0#8) ∧
    decodeTableWord 40 0x01FF400091 = some (.wrbDcreg 0xFF40#16 0x91#8) ∧
    decodeTableWord 40 0x01FF040012 = some (.wrbIozero 0xFF04#16 0x12#8) ∧
    decodeTableWord 40 0x01FE040099 = some (.wrbOamLo 0xFE04#16 0x99#8) ∧
    decodeTableWord 40 0x01FE9F0010 = some (.wrbOamHi 0xFE9F#16 0x10#8) ∧
    decodeTableWord 40 0x01FEA000FF = some (.wrbUnusable 0xFEA0#16 0xFF#8) ∧
    decodeTableWord 40 0x01C00000AB = some (.wrbWram 0xC000#16 0xAB#8) ∧
    decodeTableWord 40 0x01E123005A = some (.wrbWramMirror 0xE123#16 0x5A#8) ∧
    decodeTableWord 40 0x01A0000042 = some (.wrbEram 0xA000#16 0x42#8) ∧
    decodeTableWord 40 0x018010007E = some (.wrbVramTileLo 0x8010#16 0x7E#8) ∧
    decodeTableWord 40 0x0197FF0002 = some (.wrbVramTileHi 0x97FF#16 0x02#8) ∧
    decodeTableWord 40 0x0198000003 = some (.wrbVramMap 0x9800#16 0x03#8) ∧
    decodeTableWord 40 0x01000000FF = some (.wrbBoot 0x0000#16 0xFF#8) ∧
    decodeTableWord 40 0x0120000001 = some (.wrbRom 0x2000#16 0x01#8) := by decide

/-- The five rows matched on `cmd` alone (vectors 3.7), and the reserved codes (vectors 3.6, 7 and 8). -/
theorem test_decode_cmd_rows :
    decodeTableWord 40 0x02FF800000 = some (.rdw 0xFF80#16) ∧
    decodeTableWord 40 0x03FF801234 = some (.wrw 0xFF80#16 0x1234#16) ∧
    decodeTableWord 40 0x0400000000 = some .load ∧
    decodeTableWord 40 0x0500000000 = some .reset ∧
    decodeTableWord 40 0x0600000000 = some .bootoff ∧
    decodeTableWord 40 0x0700000000 = none ∧
    decodeTableWord 40 0xFF12345678 = none := by decide

/-- The rows whose condition the overlay flag decides (R91), the ignored bits 15:8 (vector 3.3.21), and a machine with
other parameters (R7, R121). -/
theorem test_decode_conditions :
    decode Config.default false 0x0000420000#40 = .ok (.rdbRom 0x0042#16) ∧
    decode Config.default false 0x01000000FF#40 = .ok (.wrbRom 0x0000#16 0xFF#8) ∧
    decode Config.default true 0x01C000FF5A#40 = .ok (.wrbWram 0xC000#16 0x5A#8) ∧
    decode ⟨0xFF10#16, 0xFF57#16, 0xFF01#16, [0, 2, 3, 5], .either⟩ true 0x00FF000000#40 = .ok (.rdbDcreg 0xFF00#16) ∧
    decode ⟨0xFF10#16, 0xFF57#16, 0xFF01#16, [0, 2, 3, 5], .either⟩ true 0x00FF570000#40 = .ok .rdbIf ∧
    decode ⟨0xFF10#16, 0xFF57#16, 0xFF01#16, [0, 2, 3, 5], .either⟩ true 0x00FF460000#40 =
      .ok (.rdbIozero 0xFF46#16) := by decide

/-- Words of 3.7, encoded. -/
theorem test_encode :
    encode Config.default (.rdbWram 0xC000#16) = 0x00C0000000#40 ∧
    encode Config.default (.wrbWram 0xC000#16 0xAB#8) = 0x01C00000AB#40 ∧
    encode Config.default (.rdw 0xFF80#16) = 0x02FF800000#40 ∧
    encode Config.default (.wrw 0xFF80#16 0x1234#16) = 0x03FF801234#40 ∧
    encode Config.default .load = 0x0400000000#40 ∧
    encode Config.default .reset = 0x0500000000#40 ∧
    encode Config.default .bootoff = 0x0600000000#40 ∧
    encode Config.default (.wrbDma 0xC0#8) = 0x01FF4600C0#40 := by decide

/-- The destinations of table 3.1 whose neighbours differ. -/
theorem test_decoder_boundaries :
    decodeAddr Config.default true 0x00FF#16 = .boot 0x00FF#16 ∧
    decodeAddr Config.default false 0x00FF#16 = .rom 0x00FF#16 ∧
    decodeAddr Config.default true 0x0100#16 = .rom 0x0100#16 ∧
    decodeAddr Config.default true 0x7FFF#16 = .rom 0x7FFF#16 ∧
    decodeAddr Config.default true 0x97FF#16 = .vram 0x17FF#16 ∧
    decodeAddr Config.default true 0xBFFF#16 = .eram 0x1FFF#16 ∧
    decodeAddr Config.default true 0xDFFF#16 = .wram 0x1FFF#16 ∧
    decodeAddr Config.default true 0xF000#16 = .wram 0x1000#16 ∧
    decodeAddr Config.default true 0xFDFF#16 = .wram 0x1DFF#16 ∧
    decodeAddr Config.default true 0xFE9F#16 = .oam 0x009F#16 ∧
    decodeAddr Config.default true 0xFEA0#16 = .unusable ∧
    decodeAddr Config.default true 0xFF0E#16 = .iozero ∧
    decodeAddr Config.default true 0xFF47#16 = .dcreg ∧
    decodeAddr Config.default true 0xFFFE#16 = .hram 0x007E#16 ∧
    decodeAddr Config.default true 0xFFFF#16 = .ie := by decide

/-! ### Well-formedness: an ill-formed term for each check -/

/-- Each row's check refuses the address just outside its window. -/
theorem test_wellFormed_refuses_reads :
    (Instr.rdbHram 0xFFFF#16).wellFormed Config.default true = false ∧
    (Instr.rdbDcreg 0xFF46#16).wellFormed Config.default true = false ∧
    (Instr.rdbIozero 0xFF0F#16).wellFormed Config.default true = false ∧
    (Instr.rdbOamLo 0xFE80#16).wellFormed Config.default true = false ∧
    (Instr.rdbOamHi 0xFEA0#16).wellFormed Config.default true = false ∧
    (Instr.rdbUnusable 0xFE9F#16).wellFormed Config.default true = false ∧
    (Instr.rdbWram 0xE000#16).wellFormed Config.default true = false ∧
    (Instr.rdbWramMirror 0xFE00#16).wellFormed Config.default true = false ∧
    (Instr.rdbEram 0xC000#16).wellFormed Config.default true = false ∧
    (Instr.rdbVramTileLo 0x9000#16).wellFormed Config.default true = false ∧
    (Instr.rdbVramTileHi 0x9800#16).wellFormed Config.default true = false ∧
    (Instr.rdbVramMap 0xA000#16).wellFormed Config.default true = false ∧
    (Instr.rdbBoot 0x0100#16).wellFormed Config.default true = false ∧
    (Instr.rdbBoot 0x0000#16).wellFormed Config.default false = false ∧
    (Instr.rdbRom 0x00FF#16).wellFormed Config.default true = false := by decide

/-- The same for the writes. -/
theorem test_wellFormed_refuses_writes :
    (Instr.wrbHram 0xFF7F#16 1#8).wellFormed Config.default true = false ∧
    (Instr.wrbDcreg 0xFF3F#16 1#8).wellFormed Config.default true = false ∧
    (Instr.wrbIozero 0xFF40#16 1#8).wellFormed Config.default true = false ∧
    (Instr.wrbOamLo 0xFDFF#16 1#8).wellFormed Config.default true = false ∧
    (Instr.wrbOamHi 0xFE7F#16 1#8).wellFormed Config.default true = false ∧
    (Instr.wrbUnusable 0xFF00#16 1#8).wellFormed Config.default true = false ∧
    (Instr.wrbWram 0xBFFF#16 1#8).wellFormed Config.default true = false ∧
    (Instr.wrbWramMirror 0xDFFF#16 1#8).wellFormed Config.default true = false ∧
    (Instr.wrbEram 0x9FFF#16 1#8).wellFormed Config.default true = false ∧
    (Instr.wrbVramTileLo 0x7FFF#16 1#8).wellFormed Config.default true = false ∧
    (Instr.wrbVramTileHi 0x8FFF#16 1#8).wellFormed Config.default true = false ∧
    (Instr.wrbVramMap 0x97FF#16 1#8).wellFormed Config.default true = false ∧
    (Instr.wrbBoot 0x0100#16 1#8).wellFormed Config.default true = false ∧
    (Instr.wrbRom 0x8000#16 1#8).wellFormed Config.default true = false := by decide

/-- R7's constraints on the parameters, each broken once. -/
theorem test_config_refuses :
    (Config.mk 0xFE00#16 0xFF0F#16 0xFF46#16 [4, 5, 6, 7] .lowFirst).wf = false ∧
    (Config.mk 0xFF00#16 0xFF80#16 0xFF46#16 [4, 5, 6, 7] .lowFirst).wf = false ∧
    (Config.mk 0xFF00#16 0xFF0F#16 0x0046#16 [4, 5, 6, 7] .lowFirst).wf = false ∧
    (Config.mk 0xFF0F#16 0xFF0F#16 0xFF46#16 [4, 5, 6, 7] .lowFirst).wf = false ∧
    (Config.mk 0xFF46#16 0xFF0F#16 0xFF46#16 [4, 5, 6, 7] .lowFirst).wf = false ∧
    (Config.mk 0xFF00#16 0xFF46#16 0xFF46#16 [4, 5, 6, 7] .lowFirst).wf = false ∧
    (Config.mk 0xFF00#16 0xFF0F#16 0xFF46#16 [5, 6, 7] .lowFirst).wf = false ∧
    (Config.mk 0xFF00#16 0xFF0F#16 0xFF46#16 [5, 5, 6, 7] .lowFirst).wf = false ∧
    (Config.mk 0xFF00#16 0xFF0F#16 0xFF46#16 [5, 6, 7, 8] .lowFirst).wf = false ∧
    (Config.mk 0xFF00#16 0xFF0F#16 0xFF46#16 [3, 4, 6, 7] .lowFirst).wf = false ∧
    (Config.mk 0xFF10#16 0xFF57#16 0xFF01#16 [0, 2, 3, 5] .either).wf = true := by decide

/-- Memories and images out of canonical form. -/
theorem test_memory_wf_refuses :
    (Memory.mk 128 .zero [(3, 0x01#8), (3, 0x02#8)]).wf = false ∧
    (Memory.mk 128 .zero [(128, 0x01#8)]).wf = false ∧
    (Memory.mk 128 .zero [(3, 0x00#8)]).wf = false ∧
    (Memory.mk 160 .unspecified [(3, 0x00#8)]).wf = true ∧
    (Image.mk 0x8000 [(5, 0x00#8)]).wf = false := by decide

/-! ### One step on a small state -/

/-- Power-on, then the parts of the test overlay and of the test image `G` (95_test_vectors.md section 1) that the tests
read, and a few bytes in the other stores; the collaborators' next answers are `CF`, `E1`. -/
def start : State :=
  { State.reset with
    boot := ⟨256, .zero, [(0x00, 0xA5#8), (0x01, 0xA4#8), (0x42, 0xE7#8), (0x9F, 0x3A#8), (0xFF, 0x5A#8)]⟩
    rom := ⟨0x8000, .zero, [(0x42, 0x42#8), (0xFF, 0xFF#8), (0x100, 0x01#8), (0x101, 0x02#8), (0x150, 0x51#8),
      (0x7FFF, 0x7E#8)]⟩
    vram := ⟨8192, .zero, [(0x10, 0x7E#8), (0x1000, 0x21#8), (0x1ABC, 0x43#8)]⟩
    eram := ⟨8192, .zero, [(0x1FFF, 0x42#8)]⟩
    wram := ⟨8192, .zero, [(0x123, 0x5A#8), (0x1E00, 0x99#8)]⟩
    oam := ⟨160, .zero, [(0x04, 0x99#8), (0x9F, 0xB1#8)]⟩
    hram := ⟨128, .zero, [(0x00, 0x34#8), (0x01, 0x12#8), (0x7E, 0xAB#8)]⟩
    answers := [0xCF#8, 0xE1#8] }

/-- `start` after the overlay has been switched off. -/
def startOff : State := { start with ov := false }

/-- `s` with the operation word `w` and the image `img` on the requester port. -/
def withOp (w : OpWord) (s : State) (img : Image := ⟨0, []⟩) : State := { s with requests := [⟨w, img⟩] }

/-- One thing of the state after a step, if there is one. -/
def after {α : Type} (s : State) (f : State → α) : Option α :=
  match step s with
  | .next t => some (f t)
  | .fault _ => none
  | .refused _ => none

/-- The response and the events. -/
def shown (t : State) : Option Word × List Event := (t.rsp, t.trace)

/-- Vectors 3.2, 1 to 3: the image window. -/
theorem test_rdb_image_window :
    after (withOp 0x0000420000#40 start) shown = some (some 0x00E7#16, []) ∧
    after (withOp 0x0000420000#40 startOff) shown = some (some 0x0042#16, []) ∧
    after (withOp 0x0001500000#40 start) shown = some (some 0x0051#16, []) := by decide

/-- Vectors 3.2, 4 to 8: video, cartridge and work RAM. -/
theorem test_rdb_ram :
    after (withOp 0x0080100000#40 start) shown = some (some 0x007E#16, []) ∧
    after (withOp 0x0090000000#40 start) shown = some (some 0x0021#16, []) ∧
    after (withOp 0x009ABC0000#40 start) shown = some (some 0x0043#16, []) ∧
    after (withOp 0x00BFFF0000#40 start) shown = some (some 0x0042#16, []) ∧
    after (withOp 0x00E1230000#40 start) shown = some (some 0x005A#16, []) := by decide

/-- Vectors 3.2, 9 to 11 and 18: work RAM past the mirror, the sprite table, the unusable window, high RAM. -/
theorem test_rdb_small_stores :
    after (withOp 0x00DE000000#40 start) shown = some (some 0x0099#16, []) ∧
    after (withOp 0x00FE040000#40 start) shown = some (some 0x0099#16, []) ∧
    after (withOp 0x00FE9F0000#40 start) shown = some (some 0x00B1#16, []) ∧
    after (withOp 0x00FEA00000#40 start) shown = some (some 0x0000#16, []) ∧
    after (withOp 0x00FFFE0000#40 start) shown = some (some 0x00AB#16, []) := by decide

/-- Vectors 3.2, 12 to 17 and 19: the collaborators (answering `CF`) and undecoded I/O. -/
theorem test_rdb_collaborators :
    after (withOp 0x00FF000000#40 start) shown = some (some 0x00CF#16, [.inRd 0xCF#8]) ∧
    after (withOp 0x00FF0F0000#40 start) shown = some (some 0x00CF#16, [.icGetIF 0xCF#8]) ∧
    after (withOp 0x00FF460000#40 start) shown = some (some 0x00CF#16, [.dcRd 0xFF46#16 0xCF#8]) ∧
    after (withOp 0x00FF400000#40 start) shown = some (some 0x00CF#16, [.dcRd 0xFF40#16 0xCF#8]) ∧
    after (withOp 0x00FF3F0000#40 start) shown = some (some 0x0000#16, []) ∧
    after (withOp 0x00FFFF0000#40 start) shown = some (some 0x00CF#16, [.icGetIE 0xCF#8]) := by decide

/-- Vectors 3.3, 4 to 6: video RAM and the tile hook. -/
theorem test_wrb_vram :
    after (withOp 0x018010007F#40 start) (fun t => (t.peek .vram 0x10, t.trace)) =
      some (0x7F#8, [.tile 0x8010#16 0x7F#8]) ∧
    after (withOp 0x0197FF0002#40 start) (fun t => (t.peek .vram 0x17FF, t.trace)) =
      some (0x02#8, [.tile 0x97FF#16 0x02#8]) ∧
    after (withOp 0x0198000003#40 start) (fun t => (t.peek .vram 0x1800, t.trace)) = some (0x03#8, []) := by decide

/-- Vectors 3.3, 8, 9, 19, 21: the RAM stores; a zero unlists its byte. -/
theorem test_wrb_ram :
    after (withOp 0x01A0000042#40 start) (fun t => (t.peek .eram 0, t.trace)) = some (0x42#8, []) ∧
    after (withOp 0x01C000FF5A#40 start) (fun t => (t.peek .wram 0, t.trace)) = some (0x5A#8, []) ∧
    after (withOp 0x01E1230000#40 start) (fun t => t.wram.cells) = some [(0x1E00, 0x99#8)] ∧
    after (withOp 0x01FFFE00AC#40 start) (fun t => (t.peek .hram 0x7E, t.trace)) = some (0xAC#8, []) := by decide

/-- Vectors 3.3, 10 and 11: the sprite table and its hook. -/
theorem test_wrb_oam :
    after (withOp 0x01FE040077#40 start) (fun t => (t.peek .oam 0x04, t.trace)) =
      some (0x77#8, [.sprite 0xFE04#16 0x77#8]) ∧
    after (withOp 0x01FE9F0010#40 start) (fun t => (t.peek .oam 0x9F, t.trace)) =
      some (0x10#8, [.sprite 0xFE9F#16 0x10#8]) := by decide

/-- Vectors 3.3, 1 to 3, 12, 18: writes without effect. -/
theorem test_wrb_dropped :
    after (withOp 0x01000000FF#40 start) (fun t => (t.boot, t.rom, t.trace)) = some (start.boot, start.rom, []) ∧
    after (withOp 0x01000000FF#40 startOff) (fun t => (t.boot, t.rom, t.trace)) = some (start.boot, start.rom, []) ∧
    after (withOp 0x0120000001#40 start) (fun t => (t.rom, t.trace)) = some (start.rom, []) ∧
    after (withOp 0x01FEA000FF#40 start) (fun t => (t.oam, t.trace)) = some (start.oam, []) ∧
    after (withOp 0x01FF040012#40 start) shown = some (none, []) := by decide

/-- Vectors 3.3, 13, 14, 16, 17, 20: the collaborators. -/
theorem test_wrb_collaborators :
    after (withOp 0x01FF000020#40 start) shown = some (none, [.inWr 0x20#8]) ∧
    after (withOp 0x01FF0F0000#40 start) shown = some (none, [.icSetIF 0x00#8]) ∧
    after (withOp 0x01FF400091#40 start) shown = some (none, [.dcWr 0xFF40#16 0x91#8]) ∧
    after (withOp 0x01FF500001#40 start) (fun t => (t.ov, t.trace)) = some (true, [.dcWr 0xFF50#16 0x01#8]) ∧
    after (withOp 0x01FFFF0001#40 start) (fun t => (t.hram, t.trace)) = some (start.hram, [.icSetIE 0x01#8]) := by
  decide

/-- Vector 3.4.1: a transfer from page 0 while the overlay is active copies the overlay ... -/
theorem test_dma_boot_page_bytes :
    after (withOp 0x01FF460000#40 start) (fun t => [t.peek .oam 0, t.peek .oam 1, t.peek .oam 0x9F]) =
      some [0xA5#8, 0xA4#8, 0x3A#8] := by decide +kernel

/-- ... and emits 160 events, the first and the last of them these. -/
theorem test_dma_boot_page_events :
    after (withOp 0x01FF460000#40 start) (fun t => (t.trace.length, t.trace.take 1, t.trace.drop 159)) =
      some (160, [.sprite 0xFE00#16 0xA5#8], [.sprite 0xFE9F#16 0x3A#8]) := by decide +kernel

/-- Vectors 3.5, 1 to 5: words in high RAM (even and odd) and over the end of the overlay. -/
theorem test_words :
    after (withOp 0x03FF80ABCD#40 start) (fun t => (t.peek .hram 0, t.peek .hram 1)) = some (0xCD#8, 0xAB#8) ∧
    after (withOp 0x02FF800000#40 start) shown = some (some 0x1234#16, []) ∧
    after (withOp 0x02FF810000#40 start) shown = some (some 0x0012#16, []) ∧
    after (withOp 0x0200FF0000#40 start) shown = some (some 0x015A#16, []) ∧
    after (withOp 0x0200FF0000#40 startOff) shown = some (some 0x01FF#16, []) := by decide

/-- Vectors 3.5, 6, 8, 9, 13 to 15, 18: words across regions, over the top, and over two registers. -/
theorem test_words_across :
    after (withOp 0x037FFFBEEF#40 start) (fun t => (t.peek .vram 0, t.trace)) =
      some (0xBE#8, [.tile 0x8000#16 0xBE#8]) ∧
    after (withOp 0x0397FF1122#40 start) (fun t => (t.peek .vram 0x17FF, t.peek .vram 0x1800, t.trace)) =
      some (0x22#8, 0x11#8, [.tile 0x97FF#16 0x22#8]) ∧
    after (withOp 0x03DFFFABCD#40 start) (fun t => (t.peek .wram 0x1FFF, t.peek .wram 0)) = some (0xCD#8, 0xAB#8) ∧
    after (withOp 0x02FFFF0000#40 start) shown = some (some 0xA5CF#16, [.icGetIE 0xCF#8]) ∧
    after (withOp 0x02FFFF0000#40 startOff) shown = some (some 0x00CF#16, [.icGetIE 0xCF#8]) ∧
    after (withOp 0x03FFFF5501#40 start) shown = some (none, [.icSetIE 0x01#8]) ∧
    after (withOp 0x02FF400000#40 start) shown =
      some (some 0xE1CF#16, [.dcRd 0xFF40#16 0xCF#8, .dcRd 0xFF41#16 0xE1#8]) := by decide

/-- R200, D14: the high byte first, where the parameter says so. -/
theorem test_rdw_high_first :
    after (withOp 0x02FF400000#40 { start with cfg := { Config.default with rdwOrder := .highFirst } }) shown =
      some (some 0xCFE1#16, [.dcRd 0xFF41#16 0xCF#8, .dcRd 0xFF40#16 0xE1#8]) := by decide

/-- Vectors 3.6, 1 to 3: a load replaces the whole image; one of 0x4000 bytes is refused. -/
theorem test_load :
    after (withOp 0x0400000000#40 start ⟨0x8000, [(0x150, 0xAE#8)]⟩) (fun t => t.rom) =
      some ⟨0x8000, .zero, [(0x150, 0xAE#8)]⟩ ∧
    step (withOp 0x0400000000#40 start ⟨0x4000, []⟩) = .refused (.shortImage 0x4000) := by
  exact ⟨by decide, rfl⟩

/-- Vectors 3.6, 4: what a reset clears and what it keeps. -/
theorem test_reset :
    after (withOp 0x0500000000#40 startOff) (fun t =>
      (t.ov, [t.peek .wram 0x123, t.peek .eram 0x1FFF, t.peek .hram 0, t.peek .vram 0x10, t.peek .oam 4], t.trace)) =
      some (true, [0x00#8, 0x00#8, 0x00#8, 0x7E#8, 0x99#8], []) := by decide

/-- Vectors 3.6, 5 and 6. -/
theorem test_bootoff :
    after (withOp 0x0600000000#40 start) (fun t => (t.ov, t.trace)) = some (false, []) ∧
    after (withOp 0x0600000000#40 startOff) (fun t => (t.ov, t.trace)) = some (false, []) := by decide

/-- Vectors 3.6, 7 and 8: reserved codes. -/
theorem test_reserved_codes :
    step (withOp 0x0700000000#40 start) = .refused (.reservedCommand 0x07#8) ∧
    step (withOp 0xFF12345678#40 start) = .refused (.reservedCommand 0xFF#8) := ⟨rfl, rfl⟩

/-- A word placed by `withFetchWord` runs as the first operation after power-on, `LOAD` among them (log 27). -/
theorem test_withFetchWord :
    after (State.reset.withFetchWord 40 0x00A0000000) shown = some (some 0x0000#16, []) ∧
    after (State.reset.withFetchWord 40 0x0400000000) (fun t => t.rom) = some ⟨0x8000, .zero, []⟩ := by decide

/-! ### Witnesses: states and operands that meet the hypotheses of the statements, every clause at the ends of its range -/

/-- Does the step answer a next state? -/
def runs (s : State) : Bool := (after s fun _ => true) == some true

theorem witness_DecodeOfEncodeIsTheOperation :
    Config.default.wf = true ∧ (Instr.rdbHram 0xFFFE#16).wellFormed Config.default false = true ∧
    (Instr.wrbBoot 0x00FF#16 0xFF#8).wellFormed Config.default true = true ∧
    (Instr.rdbRom 0x0000#16).wellFormed Config.default false = true ∧
    (Instr.wrbDcreg 0xFF7F#16 0x00#8).wellFormed Config.default true = true := by decide

theorem witness_EncodeOfDecodeKeepsTheUsedFields :
    Config.default.wf = true ∧
    decode Config.default true 0x00FF46BEEF#40 = .ok .rdbDma ∧ (opCmd 0x00FF46BEEF#40).toNat < 4 ∧
    decode Config.default true 0x01C000FF5A#40 = .ok (.wrbWram 0xC000#16 0x5A#8) ∧ opCmd 0x01C000FF5A#40 = 0x01#8 ∧
    decode Config.default true 0x03FF801234#40 = .ok (.wrw 0xFF80#16 0x1234#16) ∧ opCmd 0x03FF801234#40 = 0x03#8 := by
  decide

theorem witness_DecoderRejectsExactlyTheReservedCodes :
    Config.default.wf = true ∧ 7 ≤ (opCmd 0x0700000000#40).toNat ∧ 7 ≤ (opCmd 0xFFFFFFFFFF#40).toNat ∧
    (opCmd 0x0600000000#40).toNat < 7 ∧ (opCmd 0x00FFFF0000#40).toNat < 7 := by decide

theorem witness_UnusedFieldsAreIgnored :
    (opCmd 0x00C0000000#40 = opCmd 0x00C000FFFF#40 ∧ opCmd 0x00C0000000#40 = 0x00#8 ∧
      opAddr 0x00C0000000#40 = opAddr 0x00C000FFFF#40) ∧
    (opCmd 0x01C0000011#40 = opCmd 0x01C000FF11#40 ∧ opCmd 0x01C0000011#40 = 0x01#8 ∧
      opAddr 0x01C0000011#40 = opAddr 0x01C000FF11#40 ∧
      (opData 0x01C0000011#40).extractLsb' 0 8 = (opData 0x01C000FF11#40).extractLsb' 0 8) ∧
    (opCmd 0x0400000000#40 = opCmd 0x04FFFFFFFF#40 ∧ opCmd 0x0400000000#40 = 0x04#8) := by decide

theorem witness_OperationMapAgreesWithTheAddressDecoder :
    Config.default.wf = true ∧ (Config.mk 0xFF10#16 0xFF57#16 0xFF01#16 [0, 2, 3, 5] .either).wf = true := by decide

/-- Both ends of every window. -/
theorem witness_DecoderWindowsOutsideTheIoPage :
    (0x00FF#16).toNat ≤ 0x00FF ∧ ((0x7FFF#16).toNat ≤ 0x7FFF ∧ ¬ (true = true ∧ (0x7FFF#16).toNat ≤ 0x00FF)) ∧
    ((0x0000#16).toNat ≤ 0x7FFF ∧ ¬ (false = true ∧ (0x0000#16).toNat ≤ 0x00FF)) ∧
    (0x8000 ≤ (0x9FFF#16).toNat ∧ (0x9FFF#16).toNat ≤ 0x9FFF) ∧ (0xA000 ≤ (0xA000#16).toNat ∧ (0xA000#16).toNat ≤ 0xBFFF) ∧
    (0xC000 ≤ (0xDFFF#16).toNat ∧ (0xDFFF#16).toNat ≤ 0xDFFF) ∧ (0xE000 ≤ (0xFDFF#16).toNat ∧ (0xFDFF#16).toNat ≤ 0xFDFF) ∧
    (0xFE00 ≤ (0xFE9F#16).toNat ∧ (0xFE9F#16).toNat ≤ 0xFE9F) ∧ (0xFEA0 ≤ (0xFEA0#16).toNat ∧ (0xFEA0#16).toNat ≤ 0xFEFF) ∧
    (0xFF80 ≤ (0xFFFE#16).toNat ∧ (0xFFFE#16).toNat ≤ 0xFFFE) := by decide

theorem witness_DecoderInsideTheTopPage :
    Config.default.wf = true ∧ 0xFF00 ≤ (0xFF00#16).toNat ∧ 0xFF00 ≤ (0xFF7F#16).toNat ∧ 0xFF00 ≤ (0xFF80#16).toNat ∧
    0xFF00 ≤ (0xFFFF#16).toNat := by decide

theorem witness_DefaultIoPageMap :
    (0xFF00 ≤ (0xFF00#16).toNat ∧ (0xFF00#16).toNat ≤ 0xFF7F) ∧ (0xFF00 ≤ (0xFF40#16).toNat ∧ (0xFF40#16).toNat ≤ 0xFF7F) ∧
    (0xFF00 ≤ (0xFF7F#16).toNat ∧ (0xFF7F#16).toNat ≤ 0xFF7F) := by decide

theorem witness_OverlayChangesOnlyTheFirstPage :
    decodeAddr Config.default true 0x00FF#16 ≠ decodeAddr Config.default false 0x00FF#16 ∧
    decodeAddr Config.default true 0x0100#16 = decodeAddr Config.default false 0x0100#16 := by decide

theorem witness_RdbOfAStoreReturnsTheStoredByte :
    (start.ov = true ∧ (0x00FF#16).toNat ≤ 0x00FF) ∧
    ((0x0100#16).toNat ≤ 0x7FFF ∧ ¬ (start.ov = true ∧ (0x0100#16).toNat ≤ 0x00FF)) ∧
    ((0x0000#16).toNat ≤ 0x7FFF ∧ ¬ (startOff.ov = true ∧ (0x0000#16).toNat ≤ 0x00FF)) := by decide

theorem witness_ReadEventsTakeTheLinedUpAnswer :
    Instr.rdbIe ∈ Sys2Proof.Claims.collaboratorReads 0xFF40#16 ∧
    start.answers = 0xCF#8 :: [0xE1#8] ∧ State.reset.answers = [] := by decide

theorem witness_ImageWindowRowsAreOneOperation :
    startOff.ov = false ∧ start.ov = true ∧ (0x00FF#16).toNat ≤ 0x00FF := by decide

theorem witness_WrbOfASharedStoreFiresItsHook :
    Instr.wrbVramMap 0x9800#16 0x03#8 ∈
      [Instr.wrbVramTileLo 0x9800#16 0x03#8, .wrbVramTileHi 0x9800#16 0x03#8, .wrbVramMap 0x9800#16 0x03#8] ∧
    Instr.wrbOamHi 0xFE9F#16 0x10#8 ∈ [Instr.wrbOamLo 0xFE9F#16 0x10#8, .wrbOamHi 0xFE9F#16 0x10#8] := by decide

theorem witness_OperationsWithoutAResultReturnNothing :
    opCmd (encode Config.default (.wrbIe 0x01#8)) ∉ [0x00#8, 0x02#8] ∧
    ∃ t, exec (.wrbIe 0x01#8) start = .next t := ⟨by decide, _, rfl⟩

theorem witness_DmaCopiesTheSourcePage : 0x00#8 ≠ 0xFF#8 ∧ 0xFE#8 ≠ 0xFF#8 := by decide

theorem witness_DmaFromTheIoPageAsks66Registers : start.cfg = Config.default := by decide

theorem witness_RdwIsTwoByteReads :
    start.cfg.rdwOrder = .lowFirst ∧
    { start with cfg := { Config.default with rdwOrder := .highFirst } }.cfg.rdwOrder = .highFirst ∧
    { start with cfg := { Config.default with rdwOrder := .either } }.cfg.rdwOrder = .either := by decide

theorem witness_WordOperationsAreTwoByteOperations : start.cfg.wf = true ∧ start.cfg.rdwOrder = .lowFirst := by decide

theorem witness_RdwOrderShowsOnlyInsideTheRegisterBlocks :
    start.cfg = Config.default ∧ ¬ (0xFF40 ≤ (0xFF3F#16).toNat ∧ (0xFF3F#16).toNat ≤ 0xFF7E) ∧
    ¬ (0xFF40 ≤ (0xFF7F#16).toNat ∧ (0xFF7F#16).toNat ≤ 0xFF7E) := by decide

theorem witness_WordWrittenReadsBackLittleEndian :
    (0x8000 ≤ (0x8000#16).toNat ∧ (0x8000#16).toNat ≤ 0xFE9E) ∧ (0x8000 ≤ (0xFE9E#16).toNat ∧ (0xFE9E#16).toNat ≤ 0xFE9E) ∧
    (0xFF80 ≤ (0xFF80#16).toNat ∧ (0xFF80#16).toNat ≤ 0xFFFD) ∧ (0xFF80 ≤ (0xFFFD#16).toNat ∧ (0xFFFD#16).toNat ≤ 0xFFFD) := by
  decide

theorem witness_WordWriteOverTheDmaTrigger : start.cfg = Config.default := by decide

theorem witness_LoadReplacesTheImageWholesale :
    0x8000 ≤ { start with img := ⟨0x8000, []⟩ }.img.len ∧ { start with img := ⟨0x7FFF, []⟩ }.img.len < 0x8000 := by decide

theorem witness_StepRunsTheDecodedOperation :
    (withOp 0x0500000000#40 start).requests = ⟨0x0500000000#40, ⟨0, []⟩⟩ :: [] ∧
    decode start.cfg start.ov 0x0500000000#40 = .ok .reset ∧ start.requests = [] := by decide

theorem witness_ByteStepsGoThroughTheAddressDecoder :
    start.cfg.wf = true ∧ (withOp 0x00FF46BEEF#40 start).requests = ⟨0x00FF46BEEF#40, ⟨0, []⟩⟩ :: [] ∧
    opCmd 0x00FF46BEEF#40 = 0x00#8 ∧ (withOp 0x01FF46BEEF#40 start).requests = ⟨0x01FF46BEEF#40, ⟨0, []⟩⟩ :: [] ∧
    opCmd 0x01FF46BEEF#40 = 0x01#8 := by decide

/-- Both refusals are answered, and a request outside the two cases is not refused. -/
theorem witness_StepRefusesExactlyTheTwoCases :
    start.cfg.wf = true ∧ step (withOp 0x0700000000#40 start) = .refused (.reservedCommand 0x07#8) ∧
    step (withOp 0x0400000000#40 start ⟨0x7FFF, []⟩) = .refused (.shortImage 0x7FFF) ∧
    runs (withOp 0x0400000000#40 start ⟨0x8000, []⟩) = true := ⟨by decide, rfl, rfl, by decide⟩

theorem witness_EveryOtherRequestCompletes :
    start.cfg.wf = true ∧ (withOp 0x0400000000#40 start ⟨0x8000, []⟩).requests = ⟨0x0400000000#40, ⟨0x8000, []⟩⟩ :: [] ∧
    (opCmd 0x0400000000#40).toNat < 7 ∧ (opCmd 0x0400000000#40 = 0x04#8 → 0x8000 ≤ (Image.mk 0x8000 []).len) := by
  decide

/-- The test state meets the invariant, with any operation requested, and steps. -/
theorem witness_EveryStepKeepsTheInvariant :
    (withOp 0x01FE040077#40 start).Inv ∧ ∃ t, step (withOp 0x01FE040077#40 start) = .next t := by
  refine ⟨⟨by decide, ⟨rfl, ?_, rfl, rfl, rfl, rfl, rfl, rfl, rfl, rfl, ?_⟩, by decide, by decide⟩, _, rfl⟩
  · decide
  · intro id; cases id <;> decide

theorem witness_OnlyResetAndBootoffChangeTheOverlayFlag :
    (∃ t, step (withOp 0x0500000000#40 startOff) = .next t ∧ t.ov ≠ (withOp 0x0500000000#40 startOff).ov) ∧
    (∃ t, step (withOp 0x0600000000#40 start) = .next t ∧ t.ov ≠ (withOp 0x0600000000#40 start).ov) :=
  ⟨⟨_, rfl, by decide⟩, ⟨_, rfl, by decide⟩⟩

theorem witness_BootIsConstantAndOnlyLoadChangesTheImage :
    ∃ t, step (withOp 0x0400000000#40 start ⟨0x8000, []⟩) = .next t ∧
      t.rom ≠ (withOp 0x0400000000#40 start ⟨0x8000, []⟩).rom := ⟨_, rfl, by decide⟩

theorem witness_ReadStepsChangeNothingOfTheRouter :
    (∃ t, step (withOp 0x00FF000000#40 start) = .next t ∧ (withOp 0x00FF000000#40 start).requests =
      ⟨0x00FF000000#40, ⟨0, []⟩⟩ :: [] ∧ opCmd 0x00FF000000#40 = 0x00#8) ∧
    (∃ t, step (withOp 0x02FF400000#40 start) = .next t ∧ (withOp 0x02FF400000#40 start).requests =
      ⟨0x02FF400000#40, ⟨0, []⟩⟩ :: [] ∧ opCmd 0x02FF400000#40 = 0x02#8) :=
  ⟨⟨_, rfl, rfl, by decide⟩, ⟨_, rfl, rfl, by decide⟩⟩

theorem witness_StepsOnlyAddToTheTrace : ∃ t, step (withOp 0x01FE9F0010#40 start) = .next t := ⟨_, rfl⟩

theorem witness_EventsOfAByteWriteByAddress :
    start.cfg.wf = true ∧ 0xFF45#16 ≠ start.cfg.addrDma ∧ 0x97FF#16 ≠ start.cfg.addrDma ∧ 0xFFFF#16 ≠ start.cfg.addrDma := by
  decide

theorem witness_WorkRamWindowsShareTheirBytes :
    (0xC000 ≤ (0xC000#16).toNat ∧ (0xC000#16).toNat ≤ 0xDDFF) ∧ (0xC000 ≤ (0xDDFF#16).toNat ∧ (0xDDFF#16).toNat ≤ 0xDDFF) ∧
    (0xDE00 ≤ (0xDE00#16).toNat ∧ (0xDE00#16).toNat ≤ 0xDFFF) ∧ (0xDE00 ≤ (0xDFFF#16).toNat ∧ (0xDFFF#16).toNat ≤ 0xDFFF) ∧
    decodeAddr start.cfg start.ov 0xDEA0#16 = decodeAddr start.cfg start.ov 0xDEA0#16 := by decide

theorem witness_RepeatedByteWriteLeavesTheSameStores : 0xC000#16 ≠ start.cfg.addrDma := by decide

theorem witness_HiddenBytesHaveNoInfluence :
    (withOp 0x01FF4600FF#40 start).cfg.wf = true ∧
    Sys2Proof.Claims.hiddenByte (withOp 0x01FF4600FF#40 start) .hram 0x7F ∧
    Sys2Proof.Claims.hiddenByte (withOp 0x01FF4600FF#40 start) .rom 0x8000 ∧
    Sys2Proof.Claims.hiddenByte (withOp 0x01FF4600FF#40 start) .rom 0x00FF ∧
    ∃ t, step (withOp 0x01FF4600FF#40 start) = .next t :=
  ⟨by decide, .inl ⟨rfl, rfl⟩, .inr (.inl ⟨rfl, by decide⟩), .inr (.inr ⟨rfl, by decide, rfl⟩), _, rfl⟩

end Sys2Proof.Tests
end

section
/-! SUPPORT. A step takes one request, only adds to the event trace and keeps the parameters (00_scope.md R10;
20_memory.md R62). That a trace only grows is written `s.trace <+: t.trace`. -/

namespace Sys2Proof.Machine

/-! ### Ports, trace and parameters under the control operations and the byte response -/

@[simp] theorem State.loadImage_cfg (s : State) : s.loadImage.cfg = s.cfg := rfl
@[simp] theorem State.loadImage_requests (s : State) : s.loadImage.requests = s.requests := rfl
@[simp] theorem State.loadImage_trace (s : State) : s.loadImage.trace = s.trace := rfl

@[simp] theorem State.zeroRam_cfg (s : State) : s.zeroRam.cfg = s.cfg := rfl
@[simp] theorem State.zeroRam_requests (s : State) : s.zeroRam.requests = s.requests := rfl
@[simp] theorem State.zeroRam_trace (s : State) : s.zeroRam.trace = s.trace := rfl

@[simp] theorem returnByte_cfg (r : Byte × State) : (returnByte r).cfg = r.2.cfg := rfl
@[simp] theorem returnByte_requests (r : Byte × State) : (returnByte r).requests = r.2.requests := rfl
@[simp] theorem returnByte_trace (r : Byte × State) : (returnByte r).trace = r.2.trace := rfl

/-! ### The trace only grows -/

theorem emit_trace_prefix (s : State) (e : Event) : s.trace <+: (s.emit e).trace := List.prefix_append _ _

theorem readDest_trace_prefix (d : Dest) (a : Addr) (s : State) : s.trace <+: (readDest d a s).2.trace := by
  rcases readDest_cases d a s with h | ⟨e, h⟩
  · rw [h]
  · rw [h]
    exact emit_trace_prefix s.takeAnswer _

theorem readByte_trace_prefix (a : Addr) (s : State) : s.trace <+: (readByte a s).2.trace :=
  readDest_trace_prefix _ a s

theorem dmaStep_trace_prefix (v : Byte) (i : Nat) (s : State) : s.trace <+: (dmaStep v i s).trace := by
  have read := readByte_trace_prefix (dmaRead v i) s
  simpa [dmaStep] using read.trans (List.prefix_append _ _)

theorem dmaUpTo_trace_prefix (v : Byte) (n : Nat) (s : State) : s.trace <+: (dmaUpTo v n s).trace := by
  induction n with
  | zero => exact List.prefix_rfl
  | succ n ih => exact ih.trans (dmaStep_trace_prefix v n _)

theorem writeDest_trace_prefix (d : Dest) (a : Addr) (v : Byte) (s : State) :
    s.trace <+: (writeDest d a v s).trace := by
  cases d with
  | vram o => simp only [writeDest]; split <;> simp
  | dma => exact dmaUpTo_trace_prefix v dmaLen s
  | _ => simp [writeDest]

theorem writeByte_trace_prefix (a : Addr) (v : Byte) (s : State) : s.trace <+: (writeByte a v s).trace :=
  writeDest_trace_prefix _ a v s

theorem readWordLowFirst_trace_prefix (a : Addr) (s : State) : s.trace <+: (readWordLowFirst a s).trace :=
  (readByte_trace_prefix a s).trans (readByte_trace_prefix (nextAddr a) _)

theorem readWordHighFirst_trace_prefix (a : Addr) (s : State) : s.trace <+: (readWordHighFirst a s).trace :=
  (readByte_trace_prefix (nextAddr a) s).trans (readByte_trace_prefix a _)

theorem readWord_trace_prefix (a : Addr) (s : State) : s.trace <+: (readWord a s).trace := by
  rcases readWord_cases a s with h | h | h | h <;> rw [h]
  · exact readWordLowFirst_trace_prefix a s
  · exact readWordHighFirst_trace_prefix a s
  · exact readWordLowFirst_trace_prefix a s.draw
  · exact readWordHighFirst_trace_prefix a s.draw

theorem writeWord_trace_prefix (a : Addr) (w : Word) (s : State) : s.trace <+: (writeWord a w s).trace :=
  (writeByte_trace_prefix a (lowByte w) s).trans (writeByte_trace_prefix (nextAddr a) (highByte w) _)

/-! ### The whole of an operation, in the state `u` in which it runs -/

theorem Ends.trace_prefix {q : Request} {u t : State} (h : Ends q u t) : u.trace <+: t.trace := by
  cases h with
  | rdb => exact readDest_trace_prefix _ _ u
  | wrb => exact writeDest_trace_prefix _ _ _ u
  | rdw => exact readWord_trace_prefix _ u
  | wrw => exact writeWord_trace_prefix _ _ u
  | load | reset | bootoff => simp

/-- The requests still to come and the parameters are out of every operation's reach (R62, R7). -/
theorem Ends.requests_cfg {q : Request} {u t : State} (h : Ends q u t) :
    t.requests = u.requests ∧ t.cfg = u.cfg := by
  cases h with
  | rdw => obtain ⟨cfg, -, requests, -⟩ := readWord_frame (opAddr q.word) u; exact ⟨requests, cfg⟩
  | wrw => obtain ⟨cfg, -, requests, -⟩ := writeWord_frame (opAddr q.word) (opData q.word) u; exact ⟨requests, cfg⟩
  | rdb | wrb | load | reset | bootoff => simp

/-- Settles O45: an idle step changes nothing, and any other step takes the head request off the list and then runs its
operation, which only extends the trace and keeps the requests and the parameters. -/
theorem stepsOnlyAddToTheTrace : Obligations.StepsOnlyAddToTheTrace := by
  intro s t h
  rcases step_cases s t h with ⟨idle, rfl⟩ | ⟨q, rest, hq, ends⟩
  · exact ⟨⟨[], by simp⟩, by simp [idle], rfl⟩
  · obtain ⟨evs, trace⟩ := ends.trace_prefix
    obtain ⟨requests, cfg⟩ := ends.requests_cfg
    exact ⟨⟨evs, trace.symm⟩, by rw [requests, hq]; rfl, cfg⟩

end Sys2Proof.Machine
end

section
/-! SUPPORT. The state invariant (10_state.md R39): what an address can decode to, that a byte access stays inside its
store, and that every operation keeps the stores good. -/

namespace Sys2Proof

/-! ### The row a byte operation takes is the address decoder's destination (R94, R130) -/

theorem findEntry_dest {c : Config} (hw : c.wf = true) {ov : Bool} {a : Addr} {e : Entry}
    (he : findEntry c ov a = some e) : entryDest ov e a = decodeAddr c ov a ∧ entryAddr c e a = a := by
  obtain ⟨input, ifReg, dma, inputIf, inputDma, ifDma, -⟩ := c.wf_parts hw
  have ha := a.isLt
  rw [findEntry_ranges c hw] at he
  rcases ite_eq_iff.1 he with ⟨h1, ⟨⟩⟩ | ⟨h1, he⟩
  · exact ⟨(decodeAddr_ie c ov a h1).symm, BitVec.eq_of_toNat_eq h1.symm⟩
  rcases ite_eq_iff.1 he with ⟨h2, ⟨⟩⟩ | ⟨h2, he⟩
  · exact ⟨(decodeAddr_hram c ov a h2 (by omega)).symm, rfl⟩
  rcases ite_eq_iff.1 he with ⟨h3, ⟨⟩⟩ | ⟨h3, he⟩
  · subst h3; exact ⟨by rw [decodeAddr_io c ov _ input.1 (by omega), if_pos rfl]; rfl, rfl⟩
  rcases ite_eq_iff.1 he with ⟨h4, ⟨⟩⟩ | ⟨h4, he⟩
  · subst h4; exact ⟨by rw [decodeAddr_io c ov _ ifReg.1 (by omega), if_neg h3, if_pos rfl]; rfl, rfl⟩
  rcases ite_eq_iff.1 he with ⟨h5, ⟨⟩⟩ | ⟨h5, he⟩
  · subst h5; exact ⟨by rw [decodeAddr_io c ov _ dma.1 (by omega), if_neg h3, if_neg h4, if_pos rfl]; rfl, rfl⟩
  rcases ite_eq_iff.1 he with ⟨h6, ⟨⟩⟩ | ⟨h6, he⟩
  · exact ⟨by rw [decodeAddr_io c ov a h6.1 (by omega), if_neg h3, if_neg h4, if_neg h5, if_pos h6.2]; rfl, rfl⟩
  rcases ite_eq_iff.1 he with ⟨h7, ⟨⟩⟩ | ⟨h7, he⟩
  · exact ⟨by rw [decodeAddr_io c ov a h7 (by omega), if_neg h3, if_neg h4, if_neg h5, if_neg (h6 ⟨h7, ·⟩)]; rfl, rfl⟩
  rcases ite_eq_iff.1 he with ⟨h8, ⟨⟩⟩ | ⟨h8, he⟩
  · exact ⟨(decodeAddr_oam c ov a h8.1 (by omega)).symm, rfl⟩
  rcases ite_eq_iff.1 he with ⟨h9, ⟨⟩⟩ | ⟨h9, he⟩
  · exact ⟨(decodeAddr_oam c ov a h9.1 h9.2).symm, rfl⟩
  rcases ite_eq_iff.1 he with ⟨h10, ⟨⟩⟩ | ⟨h10, he⟩
  · exact ⟨(decodeAddr_unusable c ov a (by omega) (by omega)).symm, rfl⟩
  rcases ite_eq_iff.1 he with ⟨h11, ⟨⟩⟩ | ⟨h11, he⟩
  · exact ⟨(decodeAddr_wram c ov a h11.1 (by omega)).symm, rfl⟩
  rcases ite_eq_iff.1 he with ⟨h12, ⟨⟩⟩ | ⟨h12, he⟩
  · exact ⟨(decodeAddr_wram c ov a (by omega) (by omega)).symm, rfl⟩
  rcases ite_eq_iff.1 he with ⟨h13, ⟨⟩⟩ | ⟨h13, he⟩
  · exact ⟨(decodeAddr_eram c ov a h13 (by omega)).symm, rfl⟩
  rcases ite_eq_iff.1 he with ⟨h14, ⟨⟩⟩ | ⟨h14, he⟩
  · exact ⟨(decodeAddr_vram c ov a h14.1 (by omega)).symm, rfl⟩
  rcases ite_eq_iff.1 he with ⟨h15, ⟨⟩⟩ | ⟨h15, he⟩
  · exact ⟨(decodeAddr_vram c ov a h15.1 (by omega)).symm, rfl⟩
  rcases ite_eq_iff.1 he with ⟨h16, ⟨⟩⟩ | ⟨h16, he⟩
  · exact ⟨(decodeAddr_vram c ov a h16 (by omega)).symm, rfl⟩
  rcases ite_eq_iff.1 he with ⟨h17, ⟨⟩⟩ | ⟨h17, he⟩
  · exact ⟨(decodeAddr_image c ov a (by omega)).symm, rfl⟩
  cases he
  exact ⟨(decodeAddr_image c ov a (by omega)).symm, rfl⟩

end Sys2Proof

namespace Sys2Proof.Machine

/-! ### State, parameters and stores under the control operations and the byte response -/

@[simp] theorem State.loadImage_ov (s : State) : s.loadImage.ov = s.ov := rfl
@[simp] theorem State.loadImage_img (s : State) : s.loadImage.img = s.img := rfl
@[simp] theorem State.loadImage_memory (s : State) (id : StoreId) :
    s.loadImage.memory id = if id = .rom then s.img.memory else s.memory id := by cases id <;> rfl

@[simp] theorem State.zeroRam_ov (s : State) : s.zeroRam.ov = s.ov := rfl
@[simp] theorem State.zeroRam_img (s : State) : s.zeroRam.img = s.img := rfl
@[simp] theorem State.zeroRam_memory (s : State) (id : StoreId) :
    s.zeroRam.memory id = match id with
      | .eram => .zeros Config.eramSize
      | .wram => .zeros Config.wramSize
      | .hram => .zeros Config.hramSize
      | _ => s.memory id := by cases id <;> rfl

@[simp] theorem returnByte_ov (r : Byte × State) : (returnByte r).ov = r.2.ov := rfl
@[simp] theorem returnByte_img (r : Byte × State) : (returnByte r).img = r.2.img := rfl
@[simp] theorem returnByte_memory (r : Byte × State) (id : StoreId) : (returnByte r).memory id = r.2.memory id := by
  simp [returnByte]

/-! ### A byte operation's row acts as `ReadByte` and `WriteByte` (R140, R160) -/

theorem readDest_entry {s : State} (hw : s.cfg.wf = true) {a : Addr} {e : Entry}
    (he : findEntry s.cfg s.ov a = some e) :
    readDest (entryDest s.ov e a) (entryAddr s.cfg e a) s = readByte a s := by
  obtain ⟨dest, addr⟩ := findEntry_dest hw he
  rw [dest, addr, readByte]

theorem writeDest_entry {s : State} (hw : s.cfg.wf = true) {a : Addr} {e : Entry}
    (he : findEntry s.cfg s.ov a = some e) (v : Byte) :
    writeDest (entryDest s.ov e a) (entryAddr s.cfg e a) v s = writeByte a v s := by
  obtain ⟨dest, addr⟩ := findEntry_dest hw he
  rw [dest, addr, writeByte]

/-! ### The stores stay good -/

/-- With good stores, no address decodes to an offset outside its store (R85). -/
theorem decodeAddr_inside {s : State} (good : s.StoresGood) (c : Config) (ov : Bool) (a : Addr) :
    destInside (decodeAddr c ov a) s := by
  rcases decodeAddr_cases c ov a with ⟨-, d⟩ | ⟨-, -, d⟩ | ⟨-, -, d⟩ | ⟨-, -, d⟩ | ⟨lo, hi, d⟩ | ⟨-, -, d⟩ | ⟨-, d⟩ |
    ⟨-, -, d⟩ | ⟨-, -, d⟩ <;> rw [d]
  · rcases imageWindowDest_cases ov a with ⟨-, -, w⟩ | ⟨-, w⟩ <;> rw [w]
    · show (offsetPage a).toNat < s.boot.size
      rw [offsetPage_toNat, good.bootSize, Config.bootSize]; omega
    · show (offsetRom a).toNat < s.rom.size
      have long := good.romSize
      rw [offsetRom_toNat]; rw [Config.romMinLen] at long; omega
  · show (offset13 a).toNat < s.vram.size
    rw [offset13_toNat, good.vramSize, Config.vramSize]; omega
  · show (offset13 a).toNat < s.eram.size
    rw [offset13_toNat, good.eramSize, Config.eramSize]; omega
  · show (offset13 a).toNat < s.wram.size
    rw [offset13_toNat, good.wramSize, Config.wramSize]; omega
  · show (offsetPage a).toNat < s.oam.size
    rw [offsetPage_toNat, good.oamSize, Config.oamSize]; omega
  · trivial
  · trivial
  · show (offsetHram a).toNat < s.hram.size
    rw [offsetHram_toNat, good.hramSize, Config.hramSize]; omega
  · split_ifs
    · trivial
    · trivial
    · exact good.oamSize.ge
    · trivial
    · trivial

/-- Stores that keep their size, their unlisted value and their canonical form stay good. -/
theorem State.StoresGood.carry {s t : State} (good : s.StoresGood)
    (kept : ∀ id, (t.memory id).size = (s.memory id).size ∧ (t.memory id).blank = (s.memory id).blank ∧
      ((s.memory id).wf = true → (t.memory id).wf = true)) : t.StoresGood where
  bootSize := (kept .boot).1.trans good.bootSize
  romSize := (kept .rom).1 ▸ good.romSize
  vramSize := (kept .vram).1.trans good.vramSize
  eramSize := (kept .eram).1.trans good.eramSize
  wramSize := (kept .wram).1.trans good.wramSize
  oamSize := (kept .oam).1.trans good.oamSize
  hramSize := (kept .hram).1.trans good.hramSize
  eramBlank := (kept .eram).2.1.trans good.eramBlank
  wramBlank := (kept .wram).2.1.trans good.wramBlank
  hramBlank := (kept .hram).2.1.trans good.hramBlank
  canonical id := (kept id).2.2 (good.canonical id)

theorem State.StoresGood.of_memory_eq {s t : State} (good : s.StoresGood) (same : ∀ id, t.memory id = s.memory id) :
    t.StoresGood := good.carry fun id => by simp [same id]

theorem writeByte_storesGood {s : State} (good : s.StoresGood) (a : Addr) (v : Byte) :
    (writeByte a v s).StoresGood :=
  good.carry (writeDest_store _ a v s (decodeAddr_inside good _ _ a))

theorem loadImage_storesGood {s : State} (good : s.StoresGood) (long : Config.romMinLen ≤ s.img.len)
    (img : s.img.wf = true) : s.loadImage.StoresGood :=
  { good with
    romSize := long
    canonical := fun id => by
      rw [State.loadImage_memory]
      split
      · exact img
      · exact good.canonical id }

theorem zeroRam_storesGood {s : State} (good : s.StoresGood) : s.zeroRam.StoresGood :=
  { good with
    eramSize := rfl
    wramSize := rfl
    hramSize := rfl
    eramBlank := rfl
    wramBlank := rfl
    hramBlank := rfl
    canonical := fun id => by
      rw [State.zeroRam_memory]
      split
      · exact Memory.zeros_wf _
      · exact Memory.zeros_wf _
      · exact Memory.zeros_wf _
      · exact good.canonical id }

/-! ### The invariant -/

/-- The image side port is out of every operation's reach (R80). -/
theorem Ends.img {q : Request} {u t : State} (h : Ends q u t) : t.img = u.img := by
  cases h with
  | rdw => obtain ⟨-, -, -, img, -⟩ := readWord_frame (opAddr q.word) u; exact img
  | wrw => obtain ⟨-, -, -, img⟩ := writeWord_frame (opAddr q.word) (opData q.word) u; exact img
  | rdb | wrb | load | reset | bootoff => simp

theorem Ends.storesGood {q : Request} {u t : State} (inv : u.Inv) (h : Ends q u t) : t.StoresGood := by
  cases h with
  | rdb => exact inv.stores.of_memory_eq (by simp)
  | wrb e hc he =>
    rw [writeDest_entry inv.cfg he]
    exact (writeByte_storesGood inv.stores _ _).of_memory_eq (State.returnNothing_memory _)
  | rdw =>
    obtain ⟨-, -, -, -, same⟩ := readWord_frame (opAddr q.word) u
    exact inv.stores.of_memory_eq same
  | wrw =>
    have low := writeByte_storesGood inv.stores (opAddr q.word) (lowByte (opData q.word))
    exact (writeByte_storesGood low _ _).of_memory_eq (State.returnNothing_memory _)
  | load hc long => exact (loadImage_storesGood inv.stores long inv.img).of_memory_eq (by simp)
  | reset =>
    have flagged : u.setOverlay.StoresGood := inv.stores.of_memory_eq (by simp)
    exact (zeroRam_storesGood flagged).of_memory_eq (by simp)
  | bootoff => exact inv.stores.of_memory_eq (by simp)

theorem Ends.inv {q : Request} {u t : State} (inv : u.Inv) (h : Ends q u t) : t.Inv where
  cfg := h.requests_cfg.2 ▸ inv.cfg
  stores := h.storesGood inv
  img := h.img ▸ inv.img
  requests := h.requests_cfg.1 ▸ inv.requests

/-- A request that leaves the list brings its canonical image to the side port. -/
theorem State.Inv.issue {s : State} {q : Request} {rest : List Request} (inv : s.Inv) (hq : s.requests = q :: rest) :
    (s.issue q rest).Inv where
  cfg := inv.cfg
  stores := inv.stores.of_memory_eq (by simp)
  img := inv.requests q (by simp [hq])
  requests r hr := inv.requests r (by rw [hq]; exact List.mem_cons_of_mem q hr)

/-- Settles O41: an idle step changes nothing, and any other step issues the head request, which keeps the invariant,
and runs its operation, which keeps it too. -/
theorem everyStepKeepsTheInvariant : Obligations.EveryStepKeepsTheInvariant := by
  intro s t inv h
  rcases step_cases s t h with ⟨-, rfl⟩ | ⟨q, rest, hq, ends⟩
  · exact inv
  · exact ends.inv (inv.issue hq)

/-- Settles O40: every part of the invariant is read off the state after power-on. -/
theorem resetStateIsGood : Obligations.ResetStateIsGood where
  cfg := Config.default_wf
  stores := ⟨rfl, Nat.le_add_right _ _, rfl, rfl, rfl, rfl, rfl, rfl, rfl, rfl, State.reset_canonical⟩
  img := rfl
  requests := by simp [State.reset]

end Sys2Proof.Machine
end

section
/-! SUPPORT. Which operations change the overlay flag, the boot overlay and the program image (10_state.md R21 to
R23). -/

namespace Sys2Proof.Machine

theorem Ends.overlay {q : Request} {u t : State} (h : Ends q u t) :
    t.ov = u.ov ∨ (opCmd q.word = 0x05#8 ∧ t.ov = true) ∨ (opCmd q.word = 0x06#8 ∧ t.ov = false) := by
  cases h with
  | rdw => obtain ⟨-, ov, -⟩ := readWord_frame (opAddr q.word) u; exact .inl ov
  | wrw => obtain ⟨-, ov, -⟩ := writeWord_frame (opAddr q.word) (opData q.word) u; exact .inl ov
  | rdb | wrb | load => exact .inl (by simp)
  | reset hc => exact .inr (.inl ⟨hc, rfl⟩)
  | bootoff hc => exact .inr (.inr ⟨hc, rfl⟩)

theorem writeByte_readOnly (a : Addr) (v : Byte) (s : State) (id : StoreId) (h : id = .boot ∨ id = .rom) :
    (writeByte a v s).memory id = s.memory id := writeDest_readOnly _ a v s id h

/-- The boot overlay is out of every operation's reach, the program image out of reach of all but `LOAD`. -/
theorem Ends.readOnly {q : Request} {u t : State} (h : Ends q u t) (id : StoreId) (ro : id = .boot ∨ id = .rom) :
    t.memory id = u.memory id ∨ (id = .rom ∧ opCmd q.word = 0x04#8) := by
  cases h with
  | rdb => exact .inl (by simp)
  | wrb => exact .inl (by simp [writeDest_readOnly _ _ _ u id ro])
  | rdw =>
    obtain ⟨-, -, -, -, same⟩ := readWord_frame (opAddr q.word) u
    exact .inl (same id)
  | wrw => exact .inl (by simp [writeWord, writeByte_readOnly _ _ _ id ro])
  | load hc =>
    rcases ro with rfl | rfl
    · exact .inl rfl
    · exact .inr ⟨rfl, hc⟩
  | reset => rcases ro with rfl | rfl <;> exact .inl rfl
  | bootoff => exact .inl (by simp)

/-- Settles O42: an idle step keeps the flag, and of the operations only `RESET` and `BOOTOFF` write it. -/
theorem onlyResetAndBootoffChangeTheOverlayFlag : Obligations.OnlyResetAndBootoffChangeTheOverlayFlag := by
  intro s t h changed
  rcases step_cases s t h with ⟨-, rfl⟩ | ⟨q, rest, hq, ends⟩
  · exact absurd rfl changed
  · exact ⟨q, rest, hq, ends.overlay.resolve_left changed⟩

/-- Settles O43: an idle step changes nothing, and of the operations only `LOAD` reaches either store: the image. -/
theorem bootIsConstantAndOnlyLoadChangesTheImage : Obligations.BootIsConstantAndOnlyLoadChangesTheImage := by
  intro s t h
  rcases step_cases s t h with ⟨-, rfl⟩ | ⟨q, rest, hq, ends⟩
  · exact ⟨rfl, fun changed => absurd rfl changed⟩
  · refine ⟨(ends.readOnly .boot (.inl rfl)).resolve_right (by simp), fun changed => ⟨q, rest, hq, ?_⟩⟩
    exact ((ends.readOnly .rom (.inr rfl)).resolve_left changed).2

end Sys2Proof.Machine
end

section
/-! SUPPORT. The bytes nothing can read (10_state.md R23, R28; 70_reset_and_hazards.md R253, R255): no address decodes to
one, so two states that differ in such a byte only run every operation alike. -/

namespace Sys2Proof

/-- The byte of a store a destination names. -/
def Dest.byte : Dest → Option (StoreId × Nat)
  | .boot o => some (.boot, o.toNat)
  | .rom o => some (.rom, o.toNat)
  | .vram o => some (.vram, o.toNat)
  | .eram o => some (.eram, o.toNat)
  | .wram o => some (.wram, o.toNat)
  | .oam o => some (.oam, o.toNat)
  | .hram o => some (.hram, o.toNat)
  | .input | .ifReg | .ie | .dma | .dcreg | .unusable | .iozero => none

/-- The bytes of high RAM and of the program image that an address can decode to (R114, R127, R128). -/
theorem decodeAddr_byte {c : Config} {ov : Bool} {a : Addr} {id : StoreId} {k : Nat}
    (h : (decodeAddr c ov a).byte = some (id, k)) :
    (id = .hram → k < 0x7F) ∧ (id = .rom → k < 0x8000 ∧ ¬ (ov = true ∧ k < 0x100)) := by
  rcases decodeAddr_cases c ov a with ⟨lo, d⟩ | ⟨-, -, d⟩ | ⟨-, -, d⟩ | ⟨-, -, d⟩ | ⟨-, -, d⟩ | ⟨-, -, d⟩ | ⟨-, d⟩ |
    ⟨lo, hi, d⟩ | ⟨-, -, d⟩ <;> rw [d] at h
  · rcases imageWindowDest_cases ov a with ⟨-, -, w⟩ | ⟨off, w⟩ <;> rw [w] at h <;> cases h
    · exact ⟨nofun, nofun⟩
    · rw [offsetRom_toNat, Nat.mod_eq_of_lt lo]
      exact ⟨nofun, fun _ => ⟨lo, off⟩⟩
  · cases h; exact ⟨nofun, nofun⟩
  · cases h; exact ⟨nofun, nofun⟩
  · cases h; exact ⟨nofun, nofun⟩
  · cases h; exact ⟨nofun, nofun⟩
  · cases h
  · cases h
  · cases h
    rw [offsetHram_toNat]
    exact ⟨fun _ => by omega, nofun⟩
  · split_ifs at h <;> cases h

end Sys2Proof

namespace Sys2Proof.Machine

/-- No address decodes to a hidden byte. -/
theorem decodeAddr_byte_ne_hidden {s : State} {id : StoreId} {k : Nat} (hidden : Claims.hiddenByte s id k) (c : Config)
    (a : Addr) : (decodeAddr c s.ov a).byte ≠ some (id, k) := by
  intro h
  obtain ⟨hram, rom⟩ := decodeAddr_byte h
  rcases hidden with ⟨hid, rfl⟩ | ⟨hid, past⟩ | ⟨hid, first, ov⟩
  · exact absurd (hram hid) (by decide)
  · exact absurd (rom hid).1 (by omega)
  · exact (rom hid).2 ⟨ov, first⟩

/-! ### States that differ in one byte only -/

/-- `t` is `s` but for byte `k` of the store `id` (and the requests still to come, which no operation looks at). -/
structure State.AgreeBut (id : StoreId) (k : Nat) (s t : State) : Prop where
  cfg : t.cfg = s.cfg
  ov : t.ov = s.ov
  img : t.img = s.img
  rsp : t.rsp = s.rsp
  trace : t.trace = s.trace
  answers : t.answers = s.answers
  draws : t.draws = s.draws
  bytes : ∀ j n, ¬ (j = id ∧ n = k) → t.peek j n = s.peek j n

theorem agreeBut_poke (s : State) (id : StoreId) (k : Nat) (v : Byte) : State.AgreeBut id k s (s.poke id k v) where
  cfg := by simp
  ov := by simp
  img := by simp
  rsp := by simp
  trace := by simp
  answers := by simp
  draws := by simp
  bytes j n other := by simp [other]

section
variable {id : StoreId} {k : Nat} {s t : State}

/-! ### Every update of the state keeps the agreement -/

theorem State.AgreeBut.poke (h : State.AgreeBut id k s t) (j : StoreId) (n : Nat) (v : Byte) :
    State.AgreeBut id k (s.poke j n v) (t.poke j n v) where
  cfg := by simp [h.cfg]
  ov := by simp [h.ov]
  img := by simp [h.img]
  rsp := by simp [h.rsp]
  trace := by simp [h.trace]
  answers := by simp [h.answers]
  draws := by simp [h.draws]
  bytes i m other := by simp [h.bytes i m other]

theorem State.AgreeBut.setMemory (h : State.AgreeBut id k s t) (j : StoreId) (m : Memory) :
    State.AgreeBut id k (s.setMemory j m) (t.setMemory j m) where
  cfg := by simp [h.cfg]
  ov := by simp [h.ov]
  img := by simp [h.img]
  rsp := by simp [h.rsp]
  trace := by simp [h.trace]
  answers := by simp [h.answers]
  draws := by simp [h.draws]
  bytes i n other := by
    have same : (t.memory i).read i n = (s.memory i).read i n := h.bytes i n other
    by_cases hi : i = j <;> simp [State.peek, hi, same]

theorem State.AgreeBut.emit (h : State.AgreeBut id k s t) (e : Event) : State.AgreeBut id k (s.emit e) (t.emit e) :=
  { h with trace := congrArg (· ++ [e]) h.trace }

theorem State.AgreeBut.takeAnswer (h : State.AgreeBut id k s t) : State.AgreeBut id k s.takeAnswer t.takeAnswer :=
  { h with answers := congrArg List.tail h.answers, draws := congrArg (· + 1) h.draws }

theorem State.AgreeBut.draw (h : State.AgreeBut id k s t) : State.AgreeBut id k s.draw t.draw :=
  { h with draws := congrArg (· + 1) h.draws }

theorem State.AgreeBut.returnNothing (h : State.AgreeBut id k s t) :
    State.AgreeBut id k s.returnNothing t.returnNothing := { h with rsp := rfl }

theorem State.AgreeBut.returnWord (h : State.AgreeBut id k s t) (w : Word) :
    State.AgreeBut id k (s.returnWord w) (t.returnWord w) := { h with rsp := rfl }

theorem State.AgreeBut.setOverlay (h : State.AgreeBut id k s t) : State.AgreeBut id k s.setOverlay t.setOverlay :=
  { h with ov := rfl }

theorem State.AgreeBut.clearOverlay (h : State.AgreeBut id k s t) :
    State.AgreeBut id k s.clearOverlay t.clearOverlay := { h with ov := rfl }

theorem State.AgreeBut.issue (h : State.AgreeBut id k s t) (q : Request) (rest : List Request) :
    State.AgreeBut id k (s.issue q rest) (t.issue q rest) := { h with img := rfl }

theorem State.AgreeBut.loadImage (h : State.AgreeBut id k s t) : State.AgreeBut id k s.loadImage t.loadImage := by
  rw [State.loadImage, State.loadImage, h.img]
  exact h.setMemory .rom _

theorem State.AgreeBut.zeroRam (h : State.AgreeBut id k s t) : State.AgreeBut id k s.zeroRam t.zeroRam :=
  ((h.setMemory .eram _).setMemory .wram _).setMemory .hram _

/-! ### Byte and word accesses -/

/-- The outcomes of two byte reads: the same byte, and states that agree but for one byte. -/
def ReadsAgree (id : StoreId) (k : Nat) (r r' : Byte × State) : Prop := r'.1 = r.1 ∧ State.AgreeBut id k r.2 r'.2

theorem ReadsAgree.returnByte {r r' : Byte × State} (h : ReadsAgree id k r r') :
    State.AgreeBut id k (returnByte r) (returnByte r') := by
  obtain ⟨byte, agree⟩ := h
  rw [Machine.returnByte, Machine.returnByte, byte]
  exact agree.returnWord _

theorem State.AgreeBut.ask (h : State.AgreeBut id k s t) (e : Byte → Event) :
    ReadsAgree id k (s.ask e) (t.ask e) := by
  have answer : t.answer = s.answer := by rw [State.answer, State.answer, h.answers, h.draws]
  rw [State.ask, State.ask, answer]
  exact ⟨rfl, h.takeAnswer.emit _⟩

/-- A read of another byte than the one in which the states differ. -/
theorem State.AgreeBut.readDest (h : State.AgreeBut id k s t) {d : Dest} (other : d.byte ≠ some (id, k)) (a : Addr) :
    ReadsAgree id k (readDest d a s) (readDest d a t) := by
  cases d with
  | boot o | rom o | vram o | eram o | wram o | oam o | hram o =>
    refine ⟨h.bytes _ _ ?_, h⟩
    rintro ⟨rfl, rfl⟩
    exact other rfl
  | unusable | iozero => exact ⟨rfl, h⟩
  | input | ifReg | ie | dma | dcreg => exact h.ask _

theorem State.AgreeBut.readByte (h : State.AgreeBut id k s t) (hidden : Claims.hiddenByte s id k) (a : Addr) :
    ReadsAgree id k (readByte a s) (readByte a t) := by
  rw [Machine.readByte, Machine.readByte, h.cfg, h.ov]
  exact h.readDest (decodeAddr_byte_ne_hidden hidden _ a) a

/-- Whether a byte is hidden depends on the overlay flag alone. -/
theorem hiddenByte_of_ov_eq (ov : t.ov = s.ov) (hidden : Claims.hiddenByte s id k) : Claims.hiddenByte t id k := by
  unfold Claims.hiddenByte
  rw [ov]
  exact hidden

theorem State.AgreeBut.dmaUpTo (h : State.AgreeBut id k s t) (hidden : Claims.hiddenByte s id k) (v : Byte) (n : Nat) :
    State.AgreeBut id k (dmaUpTo v n s) (dmaUpTo v n t) := by
  induction n with
  | zero => exact h
  | succ n ih =>
    obtain ⟨byte, agree⟩ := ih.readByte (hiddenByte_of_ov_eq (dmaUpTo_ov v n s) hidden) (dmaRead v n)
    rw [Machine.dmaUpTo, Machine.dmaUpTo, dmaStep, dmaStep, byte]
    exact (agree.poke .oam n _).emit _

/-- Any byte write: only a transfer reads, and it reads no hidden byte. -/
theorem State.AgreeBut.writeDest (h : State.AgreeBut id k s t) (hidden : Claims.hiddenByte s id k) (d : Dest)
    (a : Addr) (v : Byte) : State.AgreeBut id k (writeDest d a v s) (writeDest d a v t) := by
  cases d with
  | boot | rom | unusable | iozero => exact h
  | eram o | wram o | hram o => exact h.poke _ o.toNat v
  | vram o =>
    simp only [Machine.writeDest]
    split
    · exact (h.poke .vram o.toNat v).emit _
    · exact h.poke .vram o.toNat v
  | oam o => exact (h.poke .oam o.toNat v).emit _
  | input | ifReg | ie | dcreg => exact h.emit _
  | dma => exact h.dmaUpTo hidden v dmaLen

theorem State.AgreeBut.writeByte (h : State.AgreeBut id k s t) (hidden : Claims.hiddenByte s id k) (a : Addr)
    (v : Byte) : State.AgreeBut id k (writeByte a v s) (writeByte a v t) := by
  rw [Machine.writeByte, Machine.writeByte, h.cfg, h.ov]
  exact h.writeDest hidden _ a v

theorem State.AgreeBut.readWordLowFirst (h : State.AgreeBut id k s t) (hidden : Claims.hiddenByte s id k) (a : Addr) :
    State.AgreeBut id k (readWordLowFirst a s) (readWordLowFirst a t) := by
  obtain ⟨lo, agree⟩ := h.readByte hidden a
  obtain ⟨hi, agree⟩ := agree.readByte (hiddenByte_of_ov_eq (readByte_ov a s) hidden) (nextAddr a)
  rw [Machine.readWordLowFirst, Machine.readWordLowFirst, lo, hi]
  exact agree.returnWord _

theorem State.AgreeBut.readWordHighFirst (h : State.AgreeBut id k s t) (hidden : Claims.hiddenByte s id k) (a : Addr) :
    State.AgreeBut id k (readWordHighFirst a s) (readWordHighFirst a t) := by
  obtain ⟨hi, agree⟩ := h.readByte hidden (nextAddr a)
  obtain ⟨lo, agree⟩ := agree.readByte (hiddenByte_of_ov_eq (readByte_ov (nextAddr a) s) hidden) a
  rw [Machine.readWordHighFirst, Machine.readWordHighFirst, lo, hi]
  exact agree.returnWord _

theorem State.AgreeBut.readWord (h : State.AgreeBut id k s t) (hidden : Claims.hiddenByte s id k) (a : Addr) :
    State.AgreeBut id k (readWord a s) (readWord a t) := by
  rw [Machine.readWord, Machine.readWord, h.cfg, h.draws]
  split
  · exact h.readWordLowFirst hidden a
  · exact h.readWordHighFirst hidden a
  · split
    · exact h.draw.readWordLowFirst hidden a
    · exact h.draw.readWordHighFirst hidden a

theorem State.AgreeBut.writeWord (h : State.AgreeBut id k s t) (hidden : Claims.hiddenByte s id k) (a : Addr)
    (w : Word) : State.AgreeBut id k (writeWord a w s) (writeWord a w t) :=
  (h.writeByte hidden a _).writeByte (hiddenByte_of_ov_eq (writeByte_ov a _ s) hidden) (nextAddr a) _

end

/-! ### The whole of an operation, and a step -/

/-- The converse of `step_cases`: a state the head request's operation ends in is the one the step answers. -/
theorem step_of_ends {s t : State} {q : Request} {rest : List Request} (hq : s.requests = q :: rest)
    (h : Ends q (s.issue q rest) t) : step s = .next t := by
  unfold step
  rw [hq]
  cases h with
  | rdb e hc he =>
    simp only [State.issue_cfg, State.issue_ov] at he
    simp only [decode_rdb _ _ _ hc, decodeByteOp, he, exec_rdbRow]
  | wrb e hc he =>
    simp only [State.issue_cfg, State.issue_ov] at he
    simp only [decode_wrb _ _ _ hc, decodeByteOp, he, exec_wrbRow]
  | rdw hc => simp [decode, hc, exec, execRdw]
  | wrw hc => simp [decode, hc, exec, execWrw]
  | load hc long => simp only [decode, hc, exec, execLoad, if_neg (Nat.not_lt.2 long)]; simp
  | reset hc => simp [decode, hc, exec, execReset]
  | bootoff hc => simp [decode, hc, exec, execBootoff]

/-- From a state that differs in a hidden byte only, the operation ends in a state that differs in that byte only. -/
theorem Ends.agreeBut {q : Request} {u u' t : State} {id : StoreId} {k : Nat} (hw : u.cfg.wf = true)
    (hidden : Claims.hiddenByte u id k) (agree : State.AgreeBut id k u u') (h : Ends q u t) :
    ∃ t', Ends q u' t' ∧ State.AgreeBut id k t t' := by
  have hw' : u'.cfg.wf = true := agree.cfg ▸ hw
  cases h with
  | rdb e hc he =>
    have he' : findEntry u'.cfg u'.ov (opAddr q.word) = some e := by rw [agree.cfg, agree.ov, he]
    refine ⟨_, .rdb e hc he', ?_⟩
    rw [readDest_entry hw he, readDest_entry hw' he']
    exact (agree.readByte hidden _).returnByte
  | wrb e hc he =>
    have he' : findEntry u'.cfg u'.ov (opAddr q.word) = some e := by rw [agree.cfg, agree.ov, he]
    refine ⟨_, .wrb e hc he', ?_⟩
    rw [writeDest_entry hw he, writeDest_entry hw' he']
    exact (agree.writeByte hidden _ _).returnNothing
  | rdw hc => exact ⟨_, .rdw hc, agree.readWord hidden _⟩
  | wrw hc => exact ⟨_, .wrw hc, (agree.writeWord hidden _ _).returnNothing⟩
  | load hc long => exact ⟨_, .load hc (agree.img ▸ long), agree.loadImage.returnNothing⟩
  | reset hc => exact ⟨_, .reset hc, agree.setOverlay.zeroRam.returnNothing⟩
  | bootoff hc => exact ⟨_, .bootoff hc, agree.clearOverlay.returnNothing⟩

theorem step_agreeBut {s s' t : State} {id : StoreId} {k : Nat} (hw : s.cfg.wf = true)
    (hidden : Claims.hiddenByte s id k) (agree : State.AgreeBut id k s s') (requests : s'.requests = s.requests)
    (h : step s = .next t) : ∃ t', step s' = .next t' ∧ State.AgreeBut id k t t' := by
  rcases step_cases s t h with ⟨idle, rfl⟩ | ⟨q, rest, hq, ends⟩
  · exact ⟨s', by rw [step, requests, idle], agree⟩
  · obtain ⟨t', ends', agree'⟩ :=
      ends.agreeBut (u := s.issue q rest) hw hidden (agree.issue q rest)
    exact ⟨t', step_of_ends (requests.trans hq) ends', agree'⟩

/-! ### The dead byte of high RAM (R28, R255) -/

@[simp] theorem State.emit_peek (s : State) (e : Event) (id : StoreId) (k : Nat) :
    (s.emit e).peek id k = s.peek id k := by simp [State.peek]

theorem writeByte_deadByte (a : Addr) (v : Byte) (s : State) :
    (writeByte a v s).peek .hram 0x7F = s.peek .hram 0x7F := by
  have other : (decodeAddr s.cfg s.ov a).byte ≠ some (.hram, 0x7F) := decodeAddr_byte_ne_hidden (.inl ⟨rfl, rfl⟩) _ a
  rw [writeByte]
  generalize decodeAddr s.cfg s.ov a = d at other
  cases d with
  | hram o =>
    have ne : 0x7F ≠ o.toNat := fun e => other (by rw [e]; rfl)
    simp [writeDest, ne]
  | vram o => simp only [writeDest]; split <;> simp
  | dma => exact congrArg (Memory.read · .hram 0x7F) (dmaUpTo_memory v dmaLen s .hram (by decide))
  | _ => simp [writeDest]

theorem Ends.deadByte {q : Request} {u t : State} (hw : u.cfg.wf = true) (h : Ends q u t) :
    t.peek .hram 0x7F = u.peek .hram 0x7F ∨ (opCmd q.word = 0x05#8 ∧ t.peek .hram 0x7F = 0x00#8) := by
  cases h with
  | wrb e hc he =>
    rw [writeDest_entry hw he]
    exact .inl (writeByte_deadByte _ _ u)
  | rdw =>
    obtain ⟨-, -, -, -, same⟩ := readWord_frame (opAddr q.word) u
    exact .inl (congrArg (Memory.read · .hram 0x7F) (same .hram))
  | wrw => exact .inl ((writeByte_deadByte _ _ _).trans (writeByte_deadByte _ _ u))
  | rdb => exact .inl (congrArg (Memory.read · .hram 0x7F) (readDest_memory _ _ u .hram))
  | load | bootoff => exact .inl rfl
  | reset hc => exact .inr ⟨hc, rfl⟩

/-- Settles O49: a step from the poked state is simulated by `State.AgreeBut`, which every update keeps because no
address decodes to a hidden byte; for the same reason no byte write reaches the dead byte. -/
theorem hiddenBytesHaveNoInfluence : Obligations.HiddenBytesHaveNoInfluence := by
  constructor
  · intro s t id k v hw hidden h
    obtain ⟨t', step', agree⟩ := step_agreeBut hw hidden (agreeBut_poke s id k v) (State.poke_requests s id k v) h
    exact ⟨t', step', agree.rsp, agree.trace, agree.ov, agree.answers, agree.draws, agree.bytes⟩
  · intro s t hw h
    rcases step_cases s t h with ⟨-, rfl⟩ | ⟨q, rest, hq, ends⟩
    · exact .inl rfl
    · exact (ends.deadByte (u := s.issue q rest) hw).imp_right fun ⟨hc, zero⟩ => ⟨q, rest, hq, hc, zero⟩

end Sys2Proof.Machine
end

section
/-! SUPPORT. What a byte write does to the bytes of the stores (20_memory.md R53, R54, R59): it sets the one byte its
address names, unless the address is read-only or names none. -/

namespace Sys2Proof

/-- Only the trigger's own address starts a transfer (R124). -/
theorem decodeAddr_ne_dma {c : Config} {a : Addr} (h : a ≠ c.addrDma) (ov : Bool) : decodeAddr c ov a ≠ .dma := by
  rcases decodeAddr_cases c ov a with ⟨-, d⟩ | ⟨-, -, d⟩ | ⟨-, -, d⟩ | ⟨-, -, d⟩ | ⟨-, -, d⟩ | ⟨-, -, d⟩ | ⟨-, d⟩ |
    ⟨-, -, d⟩ | ⟨-, -, d⟩ <;> rw [d]
  · rcases imageWindowDest_cases ov a with ⟨-, -, w⟩ | ⟨-, w⟩ <;> rw [w] <;> exact nofun
  · exact nofun
  · exact nofun
  · exact nofun
  · exact nofun
  · exact nofun
  · exact nofun
  · exact nofun
  · rw [if_neg h]
    split_ifs <;> exact nofun

theorem Dest.ne_dma_of_byte {d : Dest} {b : StoreId × Nat} (h : d.byte = some b) : d ≠ .dma := by
  rintro rfl
  cases h

/-- The addresses behind which a store can be written (R111): video RAM up to the sprite table, and high RAM. -/
def writableAddr (a : Addr) : Prop := (0x8000 ≤ a.toNat ∧ a.toNat ≤ 0xFE9F) ∨ (0xFF80 ≤ a.toNat ∧ a.toNat ≤ 0xFFFE)

/-- Such an address names a byte of a writable store, at an offset of its own parity: every offset is a remainder by an
even number (R85). -/
theorem decodeAddr_writable {a : Addr} (h : writableAddr a) (c : Config) (ov : Bool) :
    ∃ id k, (decodeAddr c ov a).byte = some (id, k) ∧ (id ≠ .boot ∧ id ≠ .rom) ∧ k % 2 = a.toNat % 2 := by
  unfold writableAddr at h
  rcases decodeAddr_cases c ov a with ⟨hi, -⟩ | ⟨-, -, d⟩ | ⟨-, -, d⟩ | ⟨-, -, d⟩ | ⟨-, -, d⟩ | ⟨lo, hi, -⟩ |
    ⟨top, -⟩ | ⟨-, -, d⟩ | ⟨lo, hi, -⟩
  · omega
  · rw [d]; exact ⟨.vram, _, rfl, by decide, by rw [offset13_toNat]; omega⟩
  · rw [d]; exact ⟨.eram, _, rfl, by decide, by rw [offset13_toNat]; omega⟩
  · rw [d]; exact ⟨.wram, _, rfl, by decide, by rw [offset13_toNat]; omega⟩
  · rw [d]; exact ⟨.oam, _, rfl, by decide, by rw [offsetPage_toNat]; omega⟩
  · omega
  · omega
  · rw [d]; exact ⟨.hram, _, rfl, by decide, by rw [offsetHram_toNat]; omega⟩
  · omega

end Sys2Proof

namespace Sys2Proof.Machine

@[simp] theorem State.draw_peek (s : State) (id : StoreId) (k : Nat) : s.draw.peek id k = s.peek id k := by
  simp [State.peek]

@[simp] theorem State.returnNothing_peek (s : State) (id : StoreId) (k : Nat) :
    s.returnNothing.peek id k = s.peek id k := by simp [State.peek]

/-! ### Byte accesses -/

theorem readDest_of_byte {d : Dest} {id : StoreId} {k : Nat} (h : d.byte = some (id, k)) (a : Addr) (s : State) :
    readDest d a s = (s.peek id k, s) := by
  cases d <;> cases h <;> rfl

theorem readByte_of_byte {a : Addr} {s : State} {id : StoreId} {k : Nat}
    (h : (decodeAddr s.cfg s.ov a).byte = some (id, k)) : readByte a s = (s.peek id k, s) :=
  readDest_of_byte h a s

/-- A byte write that is no transfer sets the byte its destination names, in a store that is not read-only, and changes
no other byte. -/
theorem writeDest_peek {d : Dest} (h : d ≠ .dma) (a : Addr) (v : Byte) (s : State) (id : StoreId) (k : Nat) :
    (writeDest d a v s).peek id k =
      if d.byte = some (id, k) ∧ id ≠ .boot ∧ id ≠ .rom then v else s.peek id k := by
  have poke (j : StoreId) (n : Nat) (writable : j ≠ .boot ∧ j ≠ .rom) : (s.poke j n v).peek id k =
      if some (j, n) = some (id, k) ∧ id ≠ .boot ∧ id ≠ .rom then v else s.peek id k := by
    rw [State.poke_peek]
    refine if_congr ⟨?_, ?_⟩ rfl rfl
    · rintro ⟨rfl, rfl⟩; exact ⟨rfl, writable⟩
    · rintro ⟨⟨⟩, -⟩; exact ⟨rfl, rfl⟩
  cases d with
  | boot o => exact (if_neg (by rintro ⟨⟨⟩, boot, -⟩; exact boot rfl)).symm
  | rom o => exact (if_neg (by rintro ⟨⟨⟩, -, rom⟩; exact rom rfl)).symm
  | vram o =>
    simp only [writeDest]
    split
    · exact (State.emit_peek ..).trans (poke .vram o.toNat (by decide))
    · exact poke .vram o.toNat (by decide)
  | eram o => exact poke .eram o.toNat (by decide)
  | wram o => exact poke .wram o.toNat (by decide)
  | hram o => exact poke .hram o.toNat (by decide)
  | oam o => exact (State.emit_peek ..).trans (poke .oam o.toNat (by decide))
  | dma => exact absurd rfl h
  | input | ifReg | ie | dcreg => exact State.emit_peek ..
  | unusable | iozero => rfl

theorem writeByte_peek {a : Addr} {s : State} (h : decodeAddr s.cfg s.ov a ≠ .dma) (v : Byte) (id : StoreId) (k : Nat) :
    (writeByte a v s).peek id k =
      if (decodeAddr s.cfg s.ov a).byte = some (id, k) ∧ id ≠ .boot ∧ id ≠ .rom then v else s.peek id k :=
  writeDest_peek h a v s id k

/-- Settles O48: both writes set the byte the address names, if it is writable, and leave every other byte. -/
theorem repeatedByteWriteLeavesTheSameStores : Obligations.RepeatedByteWriteLeavesTheSameStores := by
  intro a v s trigger id k
  have once := decodeAddr_ne_dma trigger s.ov
  have twice : decodeAddr (writeByte a v s).cfg (writeByte a v s).ov a ≠ .dma := by simpa using once
  rw [writeByte_peek twice, writeByte_peek once, writeByte_cfg, writeByte_ov]
  split <;> rfl

/-! ### Word accesses at two bytes of stores -/

theorem wordOf_high_low (w : Word) : wordOf (highByte w) (lowByte w) = w := by
  apply BitVec.eq_of_toNat_eq
  rw [wordOf, append_toNat, highByte, lowByte, field_toNat, field_toNat]
  have := w.isLt
  omega

section
variable {a : Addr} {s : State} {i j : StoreId} {k n : Nat}

/-- Whatever the order of the two reads, the response is the two stored bytes, the byte at `a` below. -/
theorem readWord_rsp (low : (decodeAddr s.cfg s.ov a).byte = some (i, k))
    (high : (decodeAddr s.cfg s.ov (nextAddr a)).byte = some (j, n)) :
    (readWord a s).rsp = some (wordOf (s.peek j n) (s.peek i k)) := by
  have lowDraw : readByte a s.draw = (s.draw.peek i k, s.draw) := readByte_of_byte low
  have highDraw : readByte (nextAddr a) s.draw = (s.draw.peek j n, s.draw) := readByte_of_byte high
  rcases readWord_cases a s with h | h | h | h <;> rw [h]
  · simp [readWordLowFirst, readByte_of_byte low, readByte_of_byte high]
  · simp [readWordHighFirst, readByte_of_byte low, readByte_of_byte high]
  · simp [readWordLowFirst, lowDraw, highDraw]
  · simp [readWordHighFirst, lowDraw, highDraw]

/-- A word write to two different writable bytes stores its low byte at `a` and its high byte at `a + 1`. -/
theorem writeWord_peek (low : (decodeAddr s.cfg s.ov a).byte = some (i, k)) (lowWritable : i ≠ .boot ∧ i ≠ .rom)
    (high : (decodeAddr s.cfg s.ov (nextAddr a)).byte = some (j, n)) (highWritable : j ≠ .boot ∧ j ≠ .rom)
    (apart : k ≠ n) (w : Word) :
    (writeWord a w s).peek i k = lowByte w ∧ (writeWord a w s).peek j n = highByte w := by
  have high' : (decodeAddr (writeByte a (lowByte w) s).cfg (writeByte a (lowByte w) s).ov (nextAddr a)).byte =
      some (j, n) := by simpa using high
  have second := writeByte_peek (Dest.ne_dma_of_byte high') (highByte w)
  have first := writeByte_peek (Dest.ne_dma_of_byte low) (lowByte w)
  rw [high'] at second
  constructor
  · calc (writeWord a w s).peek i k
        = (writeByte a (lowByte w) s).peek i k :=
          (second i k).trans (if_neg (by rintro ⟨⟨⟩, -⟩; exact apart rfl))
      _ = lowByte w := (first i k).trans (if_pos ⟨low, lowWritable⟩)
  · exact (second j n).trans (if_pos ⟨rfl, highWritable⟩)

end

/-- Settles O31: neighbouring addresses name bytes at offsets of different parity, so the high byte does not overwrite
the low one, and both reads find what was stored. -/
theorem wordWrittenReadsBackLittleEndian : Obligations.WordWrittenReadsBackLittleEndian := by
  intro a w s range
  have next : (nextAddr a).toNat = a.toNat + 1 := by
    rw [nextAddr, BitVec.toNat_add, BitVec.toNat_ofNat]
    omega
  obtain ⟨i, k, low, lowWritable, lowParity⟩ :=
    decodeAddr_writable (a := a) (by unfold writableAddr; omega) s.cfg s.ov
  obtain ⟨j, n, high, highWritable, highParity⟩ :=
    decodeAddr_writable (a := nextAddr a) (by unfold writableAddr; omega) s.cfg s.ov
  obtain ⟨lowStored, highStored⟩ := writeWord_peek low lowWritable high highWritable (by omega) w
  obtain ⟨cfg, ov, -⟩ := writeWord_frame a w s
  rw [← cfg, ← ov] at low high
  refine ⟨_, _, rfl, rfl, ?_, ?_, ?_⟩
  · rw [readWord_rsp (s := (writeWord a w s).returnNothing) low high, State.returnNothing_peek,
      State.returnNothing_peek, lowStored, highStored, wordOf_high_low]
  · rw [readByte_of_byte (s := (writeWord a w s).returnNothing) low]
    exact (State.returnNothing_peek ..).trans lowStored
  · rw [← nextAddr, readByte_of_byte (s := (writeWord a w s).returnNothing) high]
    exact (State.returnNothing_peek ..).trans highStored

end Sys2Proof.Machine
end

section
/-! SUPPORT. What a read can do (20_memory.md R57): at most one read event for each byte, and nothing to the router. -/

namespace Sys2Proof.Machine

/-- From `s` to `t` the trace gains read events only, at most `n` of them. -/
def State.AsksAtMost (n : Nat) (s t : State) : Prop :=
  ∃ evs, t.trace = s.trace ++ evs ∧ (∀ e ∈ evs, e.isRead = true) ∧ evs.length ≤ n

theorem State.AsksAtMost.trans {m n : Nat} {s t u : State} (h : s.AsksAtMost m t) (h' : t.AsksAtMost n u) :
    s.AsksAtMost (m + n) u := by
  obtain ⟨evs, trace, reads, len⟩ := h
  obtain ⟨evs', trace', reads', len'⟩ := h'
  refine ⟨evs ++ evs', by rw [trace', trace, List.append_assoc], fun e he => ?_, ?_⟩
  · exact (List.mem_append.1 he).elim (reads e) (reads' e)
  · rw [List.length_append]
    omega

theorem ask_asksAtMost (s : State) {e : Byte → Event} (read : (e s.answer).isRead = true) :
    s.AsksAtMost 1 (s.ask e).2 :=
  ⟨[e s.answer], rfl, by simpa using read, Nat.le_refl 1⟩

theorem readDest_asksAtMost (d : Dest) (a : Addr) (s : State) : s.AsksAtMost 1 (readDest d a s).2 := by
  cases d with
  | input | ifReg | ie | dma | dcreg => exact ask_asksAtMost s rfl
  | _ => exact ⟨[], by simp [readDest], by simp, by simp⟩

theorem readByte_asksAtMost (a : Addr) (s : State) : s.AsksAtMost 1 (readByte a s).2 := readDest_asksAtMost _ a s

theorem readWordLowFirst_asksAtMost (a : Addr) (s : State) : s.AsksAtMost 2 (readWordLowFirst a s) :=
  (readByte_asksAtMost a s).trans (readByte_asksAtMost (nextAddr a) _)

theorem readWordHighFirst_asksAtMost (a : Addr) (s : State) : s.AsksAtMost 2 (readWordHighFirst a s) :=
  (readByte_asksAtMost (nextAddr a) s).trans (readByte_asksAtMost a _)

theorem readWord_asksAtMost (a : Addr) (s : State) : s.AsksAtMost 2 (readWord a s) := by
  rcases readWord_cases a s with h | h | h | h <;> rw [h]
  · exact readWordLowFirst_asksAtMost a s
  · exact readWordHighFirst_asksAtMost a s
  · exact readWordLowFirst_asksAtMost a s.draw
  · exact readWordHighFirst_asksAtMost a s.draw

/-- The whole of a read operation, in the state `u` in which it runs. -/
theorem Ends.read_frame {q : Request} {u t : State} (h : Ends q u t)
    (read : opCmd q.word = 0x00#8 ∨ opCmd q.word = 0x02#8) :
    (∀ id, t.memory id = u.memory id) ∧ t.ov = u.ov ∧
      u.AsksAtMost (if opCmd q.word = 0x00#8 then 1 else 2) t := by
  cases h with
  | rdb e hc =>
    rw [if_pos hc]
    exact ⟨by simp, by simp, readDest_asksAtMost _ _ u⟩
  | rdw hc =>
    obtain ⟨-, ov, -, -, same⟩ := readWord_frame (opAddr q.word) u
    rw [if_neg (by simp [hc])]
    exact ⟨same, ov, readWord_asksAtMost _ u⟩
  | wrb _ hc | wrw hc | load hc | reset hc | bootoff hc => simp [hc] at read

/-- Settles O44: a read operation keeps every store and the flag and asks at most once for each of its bytes. -/
theorem readStepsChangeNothingOfTheRouter : Obligations.ReadStepsChangeNothingOfTheRouter := by
  intro s t q rest hq read h
  rcases step_cases s t h with ⟨idle, -⟩ | ⟨q', rest', hq', ends⟩
  · rw [idle] at hq
    cases hq
  · rw [hq] at hq'
    cases hq'
    obtain ⟨same, ov, asks⟩ := ends.read_frame read
    exact ⟨fun id => (same id).trans (State.issue_memory ..), ov, asks⟩

end Sys2Proof.Machine
end

section
/-! SUPPORT. The events of a byte write (20_memory.md R58, R66; 70_reset_and_hazards.md R258): what the destination
emits, then what the address emits. -/

namespace Sys2Proof

theorem inDcBlocks_iff (c : Config) (a : Addr) : inDcBlocks c a = true ↔ a.extractLsb' 4 4 ∈ c.dcBlocks := by
  simp [inDcBlocks]

end Sys2Proof

namespace Sys2Proof.Machine

theorem lt_tileLimit_iff (a : Addr) : a < tileLimit ↔ a.toNat < 0x9800 := Iff.rfl

/-- The events of a write of `v` at a destination other than the DMA engine, `a` being the full address (R58). -/
def writeEvents (d : Dest) (a : Addr) (v : Byte) : List Event :=
  match d with
  | .vram _ => if a.toNat < 0x9800 then [.tile a v] else []
  | .oam _ => [.sprite a v]
  | .input => [.inWr v]
  | .ifReg => [.icSetIF v]
  | .ie => [.icSetIE v]
  | .dcreg => [.dcWr a v]
  | .boot _ | .rom _ | .eram _ | .wram _ | .hram _ | .dma | .unusable | .iozero => []

theorem writeDest_trace {d : Dest} (h : d ≠ .dma) (a : Addr) (v : Byte) (s : State) :
    (writeDest d a v s).trace = s.trace ++ writeEvents d a v := by
  cases d with
  | vram o =>
    simp only [writeDest, writeEvents, lt_tileLimit_iff]
    split <;> simp
  | dma => exact absurd rfl h
  | _ => simp [writeDest, writeEvents]

/-- Settles O46: outside the trigger the events are those of the destination, and each address of the list decodes to
the destination that emits its event. -/
theorem eventsOfAByteWriteByAddress : Obligations.EventsOfAByteWriteByAddress := by
  intro a v s hw trigger
  obtain ⟨inputPage, ifPage, -⟩ := s.cfg.wf_parts hw
  rw [writeByte, writeDest_trace (decodeAddr_ne_dma trigger s.ov)]
  refine congrArg (s.trace ++ ·) ?_
  split_ifs with tile sprite ie input ifReg dc
  · rw [decodeAddr_vram _ _ a tile.1 (by omega)]
    exact if_pos (by omega)
  · rw [decodeAddr_oam _ _ a sprite.1 (by omega)]
    rfl
  · rw [decodeAddr_ie _ _ a (by rw [ie]; rfl)]
    rfl
  · rw [decodeAddr_io _ _ a (by rw [input]; exact inputPage.1) (by rw [input]; omega), if_pos input]
    rfl
  · rw [decodeAddr_io _ _ a (by rw [ifReg]; exact ifPage.1) (by rw [ifReg]; omega), if_neg input, if_pos ifReg]
    rfl
  · obtain ⟨lo, hi, block⟩ := dc
    rw [decodeAddr_io _ _ a lo (by omega), if_neg input, if_neg ifReg, if_neg trigger,
      if_pos ((inDcBlocks_iff _ a).2 block)]
    rfl
  · rcases decodeAddr_cases s.cfg s.ov a with ⟨-, d⟩ | ⟨lo, -, d⟩ | ⟨-, -, d⟩ | ⟨-, -, d⟩ | ⟨lo, hi, -⟩ | ⟨-, -, d⟩ |
      ⟨top, -⟩ | ⟨-, -, d⟩ | ⟨lo, hi, d⟩
    · rw [d]
      rcases imageWindowDest_cases s.ov a with ⟨-, -, w⟩ | ⟨-, w⟩ <;> rw [w] <;> rfl
    · rw [d]
      exact if_neg (by omega)
    · rw [d]; rfl
    · rw [d]; rfl
    · exact absurd ⟨lo, by omega⟩ sprite
    · rw [d]; rfl
    · exact absurd (BitVec.eq_of_toNat_eq top) ie
    · rw [d]; rfl
    · rw [d, if_neg input, if_neg ifReg, if_neg trigger, if_neg]
      · rfl
      · exact fun block => dc ⟨lo, by omega, (inDcBlocks_iff _ a).1 block⟩

end Sys2Proof.Machine
end

section
/-! SUPPORT. Words and operations (30_encoding.md R81 to R94): every operation as a row, the operation map as the windows
of its entries, the decoder by command code, and the round trips between words and operations. -/

namespace Sys2Proof

/-! ### Every operation as a row of the table -/

/-- Case analysis of an operation by its command code: the `RDB` row of an entry, the `WRB` row of an entry, or one of
the five other operations (R82, R94). -/
theorem Instr.rowCases {motive : Instr → Prop} (rdb : ∀ e a, motive (rdbRow e a)) (wrb : ∀ e a v, motive (wrbRow e a v))
    (rdw : ∀ a, motive (.rdw a)) (wrw : ∀ a w, motive (.wrw a w)) (load : motive .load) (reset : motive .reset)
    (bootoff : motive .bootoff) : ∀ i, motive i
  | .rdbIe => rdb .ie 0
  | .rdbHram a => rdb .hram a
  | .rdbInput => rdb .input 0
  | .rdbIf => rdb .ifReg 0
  | .rdbDma => rdb .dma 0
  | .rdbDcreg a => rdb .dcreg a
  | .rdbIozero a => rdb .iozero a
  | .rdbOamLo a => rdb .oamLo a
  | .rdbOamHi a => rdb .oamHi a
  | .rdbUnusable a => rdb .unusable a
  | .rdbWram a => rdb .wram a
  | .rdbWramMirror a => rdb .wramMirror a
  | .rdbEram a => rdb .eram a
  | .rdbVramTileLo a => rdb .vramTileLo a
  | .rdbVramTileHi a => rdb .vramTileHi a
  | .rdbVramMap a => rdb .vramMap a
  | .rdbBoot a => rdb .boot a
  | .rdbRom a => rdb .rom a
  | .wrbIe v => wrb .ie 0 v
  | .wrbHram a v => wrb .hram a v
  | .wrbInput v => wrb .input 0 v
  | .wrbIf v => wrb .ifReg 0 v
  | .wrbDma v => wrb .dma 0 v
  | .wrbDcreg a v => wrb .dcreg a v
  | .wrbIozero a v => wrb .iozero a v
  | .wrbOamLo a v => wrb .oamLo a v
  | .wrbOamHi a v => wrb .oamHi a v
  | .wrbUnusable a v => wrb .unusable a v
  | .wrbWram a v => wrb .wram a v
  | .wrbWramMirror a v => wrb .wramMirror a v
  | .wrbEram a v => wrb .eram a v
  | .wrbVramTileLo a v => wrb .vramTileLo a v
  | .wrbVramTileHi a v => wrb .vramTileHi a v
  | .wrbVramMap a v => wrb .vramMap a v
  | .wrbBoot a v => wrb .boot a v
  | .wrbRom a v => wrb .rom a v
  | .rdw a => rdw a
  | .wrw a w => wrw a w
  | .load => load
  | .reset => reset
  | .bootoff => bootoff

@[simp] theorem encode_rdbRow (c : Config) (e : Entry) (a : Addr) :
    encode c (rdbRow e a) = opWord 0x00#8 (entryAddr c e a) 0x0000#16 := by cases e <;> rfl

@[simp] theorem encode_wrbRow (c : Config) (e : Entry) (a : Addr) (v : Byte) :
    encode c (wrbRow e a v) = opWord 0x01#8 (entryAddr c e a) (byteData v) := by cases e <;> rfl

/-- A row of a single-address entry carries no address, and every other row carries the address it acts at. -/
theorem rdbRow_entryAddr (c : Config) (e : Entry) (a : Addr) : rdbRow e (entryAddr c e a) = rdbRow e a := by
  cases e <;> rfl

theorem wrbRow_entryAddr (c : Config) (e : Entry) (a : Addr) (v : Byte) :
    wrbRow e (entryAddr c e a) v = wrbRow e a v := by cases e <;> rfl

/-- A row is well-formed when its entry's window holds the address it acts at. -/
theorem wellFormed_rdbRow (c : Config) (ov : Bool) (e : Entry) (a : Addr) :
    (rdbRow e a).wellFormed c ov = e.admits c ov (entryAddr c e a) := by
  cases e with
  | ie | input | ifReg | dma => exact (beq_self_eq_true _).symm
  | _ => rfl

theorem wellFormed_wrbRow (c : Config) (ov : Bool) (e : Entry) (a : Addr) (v : Byte) :
    (wrbRow e a v).wellFormed c ov = e.admits c ov (entryAddr c e a) := by
  rw [← wellFormed_rdbRow]
  cases e <;> rfl

/-! ### The operation map finds the one entry whose window holds the address (R94, R129) -/

@[simp] theorem within_eq (lo hi a : Addr) : within lo hi a = decide (lo.toNat ≤ a.toNat ∧ a.toNat ≤ hi.toNat) := by
  simp [within, BitVec.le_def]

@[simp] theorem inIoPage_eq (a : Addr) : Config.inIoPage a = decide (0xFF00 ≤ a.toNat ∧ a.toNat ≤ 0xFF7F) := by
  simp [Config.inIoPage, BitVec.le_def]

/-- The tests that lead to an entry in the ordered list are, together, its window: for each entry both sides become
inequalities between numbers, and for four of them a flag beside. -/
theorem findEntry_eq_some_iff {c : Config} (hw : c.wf = true) (ov : Bool) (a : Addr) (e : Entry) :
    findEntry c ov a = some e ↔ e.admits c ov a = true := by
  obtain ⟨input, ifReg, dma, inputIf, inputDma, ifDma, -⟩ := c.wf_parts hw
  have ha := a.isLt
  rw [findEntry_ranges c hw]
  simp only [← BitVec.toNat_inj, ne_eq, ite_eq_iff, Option.some.injEq] at inputIf inputDma ifDma ⊢
  cases e <;> simp only [Entry.admits, namedRegister, within_eq, inIoPage_eq, reduceCtorEq, and_true, and_false,
    or_false, false_or, ← BitVec.toNat_inj, BitVec.toNat_ofNat, beq_iff_eq, beq_eq_false_iff_ne, ne_eq, decide_eq_true_eq,
    Bool.and_eq_true, Bool.not_eq_true', Bool.or_eq_false_iff]
  case dcreg | iozero =>
    cases inDcBlocks c a <;> simp
    omega
  case boot | rom => cases ov <;> simp <;> omega
  all_goals omega

/-- Every address is classified (R129). -/
theorem findEntry_isSome {c : Config} (hw : c.wf = true) (ov : Bool) (a : Addr) : ∃ e, findEntry c ov a = some e := by
  rw [← Option.isSome_iff_exists, findEntry_ranges c hw]
  simp only [apply_ite Option.isSome, Option.isSome_some, ite_self]

/-- Settles O6: the list finds an entry for every address, an entry is found exactly when its window holds the address,
and the found entry's destination and address are the decoder's. -/
theorem operationMapAgreesWithTheAddressDecoder : Obligations.OperationMapAgreesWithTheAddressDecoder := by
  intro c ov a hw
  obtain ⟨e, he⟩ := findEntry_isSome hw ov a
  refine ⟨e, he, fun e' => ?_, findEntry_dest hw he⟩
  rw [← findEntry_eq_some_iff hw, he, Option.some_inj, eq_comm]

end Sys2Proof

namespace Sys2Proof.Machine

/-! ### The decoder, by command code (R82, R88) -/

section
variable (c : Config) (ov : Bool) {w : OpWord}

theorem decode_rdb_of_findEntry {e : Entry} (h : opCmd w = 0x00#8) (he : findEntry c ov (opAddr w) = some e) :
    decode c ov w = .ok (rdbRow e (opAddr w)) := by simp only [decode_rdb c ov w h, decodeByteOp, he]

theorem decode_wrb_of_findEntry {e : Entry} (h : opCmd w = 0x01#8) (he : findEntry c ov (opAddr w) = some e) :
    decode c ov w = .ok (wrbRow e (opAddr w) ((opData w).extractLsb' 0 8)) := by
  simp only [decode_wrb c ov w h, decodeByteOp, he]

theorem decode_rdw (h : opCmd w = 0x02#8) : decode c ov w = .ok (.rdw (opAddr w)) := by simp [decode, h]

theorem decode_wrw (h : opCmd w = 0x03#8) : decode c ov w = .ok (.wrw (opAddr w) (opData w)) := by simp [decode, h]

theorem decode_load (h : opCmd w = 0x04#8) : decode c ov w = .ok .load := by simp [decode, h]

theorem decode_reset (h : opCmd w = 0x05#8) : decode c ov w = .ok .reset := by simp [decode, h]

theorem decode_bootoff (h : opCmd w = 0x06#8) : decode c ov w = .ok .bootoff := by simp [decode, h]

theorem decode_reserved (h : 7 ≤ (opCmd w).toNat) : decode c ov w = .error (.reservedCommand (opCmd w)) := by
  have other (k : Byte) (hk : k.toNat < 7) : opCmd w ≠ k := by rintro rfl; omega
  simp [decode, other]

end

/-- The seven command codes that are not reserved (R82, R88). -/
theorem command_cases {x : Byte} (h : x.toNat < 7) :
    x = 0x00#8 ∨ x = 0x01#8 ∨ x = 0x02#8 ∨ x = 0x03#8 ∨ x = 0x04#8 ∨ x = 0x05#8 ∨ x = 0x06#8 := by
  simp only [← BitVec.toNat_inj, BitVec.toNat_ofNat]
  omega

/-- Settles O4: a code from 7 on fails every test of the decoder; below 7 the byte operations decode to the row of the
entry found, whose window holds the address, and the others check nothing. -/
theorem decoderRejectsExactlyTheReservedCodes : Obligations.DecoderRejectsExactlyTheReservedCodes := by
  intro c ov w hw
  refine ⟨decode_reserved c ov, fun h => ?_⟩
  obtain ⟨e, he⟩ := findEntry_isSome hw ov (opAddr w)
  have window : e.admits c ov (entryAddr c e (opAddr w)) = true := by
    rw [(findEntry_dest hw he).2]
    exact (findEntry_eq_some_iff hw ov _ e).1 he
  rcases command_cases h with h | h | h | h | h | h | h
  · exact ⟨_, decode_rdb_of_findEntry c ov h he, by rw [wellFormed_rdbRow, window]⟩
  · exact ⟨_, decode_wrb_of_findEntry c ov h he, by rw [wellFormed_wrbRow, window]⟩
  · exact ⟨_, decode_rdw c ov h, rfl⟩
  · exact ⟨_, decode_wrw c ov h, rfl⟩
  · exact ⟨_, decode_load c ov h, rfl⟩
  · exact ⟨_, decode_reset c ov h, rfl⟩
  · exact ⟨_, decode_bootoff c ov h, rfl⟩

/-- Settles O5: each command's decoding is a function of the fields it uses. -/
theorem unusedFieldsAreIgnored : Obligations.UnusedFieldsAreIgnored := by
  intro c ov w x cmd
  refine ⟨?_, ?_, ?_⟩
  · rintro (h | h) addr
    · rw [decode_rdb c ov w h, decode_rdb c ov x (cmd ▸ h), addr]
    · rw [decode_rdw c ov h, decode_rdw c ov (cmd ▸ h), addr]
  · intro h addr byte
    rw [decode_wrb c ov w h, decode_wrb c ov x (cmd ▸ h), addr, byte]
  · rintro (h | h | h)
    · rw [decode_load c ov h, decode_load c ov (cmd ▸ h)]
    · rw [decode_reset c ov h, decode_reset c ov (cmd ▸ h)]
    · rw [decode_bootoff c ov h, decode_bootoff c ov (cmd ▸ h)]

/-! ### Round trips -/

/-- Settles O2: a well-formed row's window holds the address its word carries, so the operation map finds the row's
entry again. -/
theorem decodeOfEncodeIsTheOperation : Obligations.DecodeOfEncodeIsTheOperation := by
  intro c ov i hw wellFormed
  cases i using Instr.rowCases with
  | rdb e a =>
    rw [wellFormed_rdbRow, ← findEntry_eq_some_iff hw] at wellFormed
    rw [encode_rdbRow, decode_rdb_of_findEntry c ov (opCmd_opWord ..) (by rwa [opAddr_opWord]), opAddr_opWord,
      rdbRow_entryAddr]
  | wrb e a v =>
    rw [wellFormed_wrbRow, ← findEntry_eq_some_iff hw] at wellFormed
    rw [encode_wrbRow, decode_wrb_of_findEntry c ov (opCmd_opWord ..) (by rwa [opAddr_opWord]), opAddr_opWord,
      opData_opWord, byteData_low, wrbRow_entryAddr]
  | rdw a => rw [encode, decode_rdw c ov (opCmd_opWord ..), opAddr_opWord]
  | wrw a w => rw [encode, decode_wrw c ov (opCmd_opWord ..), opAddr_opWord, opData_opWord]
  | load => exact decode_load c ov (opCmd_opWord ..)
  | reset => exact decode_reset c ov (opCmd_opWord ..)
  | bootoff => exact decode_bootoff c ov (opCmd_opWord ..)

/-- Settles O3: the word a row encodes to carries the row's own address, which is the operand for the entry found. -/
theorem encodeOfDecodeKeepsTheUsedFields : Obligations.EncodeOfDecodeKeepsTheUsedFields := by
  intro c ov w i hw h
  rcases decode_cases c ov w i h with ⟨cmd, e, he, rfl⟩ | ⟨cmd, e, he, rfl⟩ | ⟨cmd, rfl⟩ | ⟨cmd, rfl⟩ | ⟨cmd, rfl⟩ |
    ⟨cmd, rfl⟩ | ⟨cmd, rfl⟩
  · simp [cmd, (findEntry_dest hw he).2]
  · simp [cmd, (findEntry_dest hw he).2]
  all_goals simp [cmd, encode]

/-- Settles O1: seven words, each evaluated by the decoder. -/
theorem wordsWrittenOutDecodeToTheirRows : Obligations.WordsWrittenOutDecodeToTheirRows := by
  unfold Obligations.WordsWrittenOutDecodeToTheirRows
  decide

/-! ### The overlay flag (R91) -/

/-- Above the image window the decoder does not ask the flag. -/
theorem decodeAddr_ov_irrelevant (c : Config) (ov ov' : Bool) {a : Addr} (h : 0x8000 ≤ a.toNat) :
    decodeAddr c ov a = decodeAddr c ov' a := by
  have high : a.extractLsb' 15 1 ≠ 0#1 := by
    rw [ne_eq, ← BitVec.toNat_inj, field_toNat, BitVec.toNat_ofNat]
    omega
  rw [decodeAddr, decodeAddr, if_neg high, if_neg high]

/-- Settles O10: the first page is the boot overlay or the program image, the rest of the image window is the image for
either flag, and above the window the flag is not asked. -/
theorem overlayChangesOnlyTheFirstPage : Obligations.OverlayChangesOnlyTheFirstPage := by
  intro c a
  constructor
  · intro differ
    by_contra above
    refine differ ?_
    by_cases window : a.toNat < 0x8000
    · rw [decodeAddr_image c _ a window, decodeAddr_image c _ a window, imageWindowDest_rom true a (by omega),
        imageWindowDest_rom false a (by simp)]
    · exact decodeAddr_ov_irrelevant c _ _ (by omega)
  · intro page
    rw [decodeAddr_image c _ a (by omega), decodeAddr_image c _ a (by omega),
      imageWindowDest_boot true a rfl (by omega), imageWindowDest_rom false a (by simp)]
    exact nofun

end Sys2Proof.Machine
end

section
/-! SUPPORT. Requests and results (30_encoding.md R80, R83, R93): the operation a step runs, what stands on the response
port after it, and that no byte access depends on the requests, the image or the response on the ports. -/

namespace Sys2Proof.Machine

/-! ### The operation a step runs, and its response -/

/-- Settles O36: `step` takes the head request's word through the decoder and hands the operation to `exec`. -/
theorem stepRunsTheDecodedOperation : Obligations.StepRunsTheDecodedOperation := by
  constructor
  · intro s q rest i hq decoded
    simp only [step, hq, decoded, State.issue]
  · intro s idle
    simp only [step, idle]

/-- Settles O21: the operations that are no reads end by emptying the response port. -/
theorem operationsWithoutAResultReturnNothing : Obligations.OperationsWithoutAResultReturnNothing := by
  intro i c s t noResult h
  cases i using Instr.rowCases with
  | rdb e a => simp at noResult
  | wrb e a v =>
    rw [exec_wrbRow] at h
    cases h
    rfl
  | rdw a => simp [encode] at noResult
  | load =>
    simp only [exec, execLoad] at h
    split at h
    · cases h
    · cases h
      rfl
  | wrw | reset | bootoff =>
    cases h
    rfl

/-- Settles O16: both rows read at the destination the overlay flag selects. -/
theorem imageWindowRowsAreOneOperation : Obligations.ImageWindowRowsAreOneOperation := by
  intro a s
  refine ⟨rfl, fun off => ?_, fun on page => ?_⟩
  · rw [exec, execRdbBoot, imageWindowDest_rom s.ov a (by simp [off])]
    rfl
  · have offset : (offsetPage a).toNat = a.toNat := by
      rw [offsetPage_toNat]
      omega
    rw [exec, execRdbRom, imageWindowDest_boot s.ov a on (by omega), readDest, offset]
    rfl

/-! ### What stands on the ports has no influence on a byte access -/

/-- The state with other requests, image and response on the ports. -/
def State.setPorts (s : State) (requests : List Request) (img : Image) (rsp : Option Word) : State :=
  { s with requests := requests, img := img, rsp := rsp }

theorem State.issue_eq_setPorts (s : State) (q : Request) (rest : List Request) :
    s.issue q rest = s.setPorts rest q.img s.rsp := rfl

theorem State.returnNothing_eq_setPorts (s : State) : s.returnNothing = s.setPorts s.requests s.img none := rfl

theorem returnByte_eq_setPorts (r : Byte × State) :
    returnByte r = r.2.setPorts r.2.requests r.2.img (some (byteResult r.1)) := rfl

section
variable (s : State) (requests : List Request) (img : Image) (rsp : Option Word)

@[simp] theorem State.setPorts_cfg : (s.setPorts requests img rsp).cfg = s.cfg := rfl
@[simp] theorem State.setPorts_ov : (s.setPorts requests img rsp).ov = s.ov := rfl
@[simp] theorem State.setPorts_requests : (s.setPorts requests img rsp).requests = requests := rfl
@[simp] theorem State.setPorts_img : (s.setPorts requests img rsp).img = img := rfl
@[simp] theorem State.setPorts_rsp : (s.setPorts requests img rsp).rsp = rsp := rfl
@[simp] theorem State.setPorts_setPorts (requests' : List Request) (img' : Image) (rsp' : Option Word) :
    (s.setPorts requests img rsp).setPorts requests' img' rsp' = s.setPorts requests' img' rsp' := rfl

theorem setPorts_poke (id : StoreId) (k : Nat) (v : Byte) :
    (s.setPorts requests img rsp).poke id k v = (s.poke id k v).setPorts requests img rsp := by cases id <;> rfl

theorem setPorts_emit (e : Event) :
    (s.setPorts requests img rsp).emit e = (s.emit e).setPorts requests img rsp := rfl

theorem readDest_setPorts (d : Dest) (a : Addr) : readDest d a (s.setPorts requests img rsp) =
    ((readDest d a s).1, (readDest d a s).2.setPorts requests img rsp) := by cases d <;> rfl

theorem readByte_setPorts (a : Addr) : readByte a (s.setPorts requests img rsp) =
    ((readByte a s).1, (readByte a s).2.setPorts requests img rsp) := readDest_setPorts s requests img rsp _ a

theorem dmaUpTo_setPorts (v : Byte) (n : Nat) :
    dmaUpTo v n (s.setPorts requests img rsp) = (dmaUpTo v n s).setPorts requests img rsp := by
  induction n with
  | zero => rfl
  | succ n ih => simp only [dmaUpTo, dmaStep, ih, readByte_setPorts, setPorts_poke, setPorts_emit]

theorem writeDest_setPorts (d : Dest) (a : Addr) (v : Byte) :
    writeDest d a v (s.setPorts requests img rsp) = (writeDest d a v s).setPorts requests img rsp := by
  cases d with
  | vram o =>
    simp only [writeDest]
    split <;> rfl
  | dma => exact dmaUpTo_setPorts s requests img rsp v dmaLen
  | _ => rfl

theorem writeByte_setPorts (a : Addr) (v : Byte) :
    writeByte a v (s.setPorts requests img rsp) = (writeByte a v s).setPorts requests img rsp :=
  writeDest_setPorts s requests img rsp _ a v

end

/-! ### Word steps and byte steps (R93) -/

section
variable {s : State} {q : Request} {rest : List Request}

/-- An `RDB` step is `ReadByte` at the word's address, its byte on the response port (R140). -/
theorem step_rdb (hw : s.cfg.wf = true) (hq : s.requests = q :: rest) (hc : opCmd q.word = 0x00#8) :
    step s = .next (returnByte (readByte (opAddr q.word) (s.issue q rest))) := by
  obtain ⟨e, he⟩ := findEntry_isSome hw s.ov (opAddr q.word)
  rw [step_of_ends hq (.rdb e hc he), readDest_entry (s := s.issue q rest) hw he]

/-- A `WRB` step is `WriteByte` of the low byte of the word's data at its address (R160). -/
theorem step_wrb (hw : s.cfg.wf = true) (hq : s.requests = q :: rest) (hc : opCmd q.word = 0x01#8) :
    step s = .next (writeByte (opAddr q.word) ((opData q.word).extractLsb' 0 8) (s.issue q rest)).returnNothing := by
  obtain ⟨e, he⟩ := findEntry_isSome hw s.ov (opAddr q.word)
  rw [step_of_ends hq (.wrb e hc he), writeDest_entry (s := s.issue q rest) hw he]

end

/-! The same for a word written out from its fields: the bytes are read and written as in `s`, whatever `s` has on its
ports, and the ports hold what the step leaves there. -/

section
variable (s : State) (a : Addr) (rest : List Request) (img img' : Image) (rsp : Option Word)

theorem step_rdb_opWord (hw : s.cfg.wf = true) (d : Word) :
    step (s.setPorts (⟨opWord 0x00#8 a d, img⟩ :: rest) img' rsp) =
      .next ((readByte a s).2.setPorts rest img (some (byteResult (readByte a s).1))) := by
  rw [step_rdb (s := s.setPorts (⟨opWord 0x00#8 a d, img⟩ :: rest) img' rsp) hw rfl (opCmd_opWord ..), opAddr_opWord,
    State.issue_eq_setPorts, State.setPorts_setPorts, readByte_setPorts, returnByte_eq_setPorts]
  rfl

theorem step_wrb_opWord (hw : s.cfg.wf = true) (d : Word) :
    step (s.setPorts (⟨opWord 0x01#8 a d, img⟩ :: rest) img' rsp) =
      .next ((writeByte a (d.extractLsb' 0 8) s).setPorts rest img none) := by
  rw [step_wrb (s := s.setPorts (⟨opWord 0x01#8 a d, img⟩ :: rest) img' rsp) hw rfl (opCmd_opWord ..), opAddr_opWord,
    opData_opWord, State.issue_eq_setPorts, State.setPorts_setPorts, writeByte_setPorts,
    State.returnNothing_eq_setPorts]
  rfl

theorem step_wrw_opWord (w : Word) :
    step (s.setPorts (⟨opWord 0x03#8 a w, img⟩ :: rest) img' rsp) =
      .next ((writeByte (nextAddr a) (highByte w) (writeByte a (lowByte w) s)).setPorts rest img none) := by
  rw [step_of_ends (q := ⟨opWord 0x03#8 a w, img⟩) (rest := rest) rfl (.wrw (opCmd_opWord ..)), opAddr_opWord,
    opData_opWord, State.issue_eq_setPorts, State.setPorts_setPorts, writeWord, writeByte_setPorts, writeByte_setPorts,
    State.returnNothing_eq_setPorts]
  rfl

theorem step_rdw_opWord (order : s.cfg.rdwOrder = .lowFirst) (d : Word) :
    step (s.setPorts (⟨opWord 0x02#8 a d, img⟩ :: rest) img' rsp) =
      .next ((readByte (nextAddr a) (readByte a s).2).2.setPorts rest img
        (some (wordOf (readByte (nextAddr a) (readByte a s).2).1 (readByte a s).1))) := by
  rw [step_of_ends (q := ⟨opWord 0x02#8 a d, img⟩) (rest := rest) rfl (.rdw (opCmd_opWord ..)), opAddr_opWord,
    State.issue_eq_setPorts, State.setPorts_setPorts, readWord, State.setPorts_cfg, order]
  simp only [readWordLowFirst, readByte_setPorts]
  rfl

end

/-- Settles O27: a byte access does not see the ports, so the second byte step runs as the second half of the word
step does, and what each step leaves on the ports is the last one's. -/
theorem wordOperationsAreTwoByteOperations : Obligations.WordOperationsAreTwoByteOperations := by
  intro a w img s hw
  have lowData : (0x00#8 ++ w.extractLsb' 0 8).extractLsb' 0 8 = lowByte w := byteData_low (lowByte w)
  have highData : (0x00#8 ++ w.extractLsb' 8 8).extractLsb' 0 8 = highByte w := byteData_low (highByte w)
  constructor
  · refine ⟨_, _, step_wrw_opWord s a [] img s.img s.rsp w, step_wrb_opWord s a _ img s.img s.rsp hw _, ?_⟩
    rw [step_wrb_opWord _ _ _ _ _ _ (by simpa using hw), lowData, highData]
    rfl
  · intro order
    exact ⟨_, _, _, _, _, step_rdw_opWord s a [] img s.img s.rsp order _, step_rdb_opWord s a _ img s.img s.rsp hw _,
      step_rdb_opWord (readByte a s).2 (nextAddr a) [] img img _ (by simpa using hw) _, rfl, rfl, rfl⟩

end Sys2Proof.Machine
end

section
/-! SUPPORT. The address decoder's windows and the top page (40_address_decoder.md R113 to R128; 20_memory.md section 1):
the offset into a window and into its mirror, and what answers inside 0xFF00 to 0xFF7F. -/

namespace Sys2Proof

/-- Inside the image window the offset is the address (R85). -/
theorem offsetRom_eq_self {a : Addr} (h : a.toNat < 0x8000) : offsetRom a = a :=
  BitVec.eq_of_toNat_eq ((offsetRom_toNat a).trans (Nat.mod_eq_of_lt h))

/-- The address that an address of the mirror stands for (R118), as a number. -/
theorem sub_mirror_toNat {a : Addr} (h : 0x2000 ≤ a.toNat) : (a - 0x2000#16).toNat = a.toNat - 0x2000 :=
  BitVec.toNat_sub_of_le h

/-- It has the same offset: 0x2000 is the size of the window (R85, R118). -/
theorem offset13_sub_mirror {a : Addr} (h : 0x2000 ≤ a.toNat) : offset13 (a - 0x2000#16) = offset13 a := by
  apply BitVec.eq_of_toNat_eq
  rw [offset13_toNat, offset13_toNat, sub_mirror_toNat h]
  omega

/-- Settles O7: each clause is one window of the decoder; the offset into the image is the address itself, and the
mirror's address less 0x2000 lies in the WRAM window at the same offset. -/
theorem decoderWindowsOutsideTheIoPage : Obligations.DecoderWindowsOutsideTheIoPage := by
  intro c ov a
  refine ⟨fun overlay page => ?boot, fun window image => ?rom, fun lo hi => ?vram, fun lo hi => ?eram,
    fun lo hi => ?wram, fun lo hi => ⟨?mirror, ?same⟩, fun lo hi => ?oam, fun lo hi => ?unusable,
    fun lo hi => ?hram, fun top => ?ie⟩
  case boot => rw [decodeAddr_image c ov a (by omega), imageWindowDest_boot ov a overlay (by omega), offsetPage]
  case rom =>
    have notOverlay : ¬ (ov = true ∧ a.toNat < 0x100) := fun ⟨overlay, page⟩ => image ⟨overlay, by omega⟩
    rw [decodeAddr_image c ov a (by omega), imageWindowDest_rom ov a notOverlay, offsetRom_eq_self (by omega)]
  case vram => exact decodeAddr_vram c ov a lo (by omega)
  case eram => exact decodeAddr_eram c ov a lo (by omega)
  case wram => exact decodeAddr_wram c ov a lo (by omega)
  case mirror => exact decodeAddr_wram c ov a (by omega) (by omega)
  case same =>
    have below := sub_mirror_toNat (a := a) (by omega)
    rw [decodeAddr_wram c ov a (by omega) (by omega),
      decodeAddr_wram c ov (a - 0x2000#16) (by omega) (by omega), offset13_sub_mirror (by omega)]
  case oam => exact decodeAddr_oam c ov a lo (by omega)
  case unusable => exact decodeAddr_unusable c ov a lo (by omega)
  case hram => exact decodeAddr_hram c ov a lo (by omega)
  case ie => exact decodeAddr_ie c ov a (by rw [top]; rfl)

/-! ### The top page (R121, R126) -/

/-- With admissible parameters no named register lies above the I/O page (R7). -/
theorem not_named_of_above {c : Config} (hw : c.wf = true) {a : Addr} (above : 0xFF80 ≤ a.toNat) :
    a ≠ c.addrInput ∧ a ≠ c.addrIf ∧ a ≠ c.addrDma := by
  obtain ⟨input, ifReg, dma, -⟩ := c.wf_parts hw
  refine ⟨?_, ?_, ?_⟩ <;> rintro rfl <;> omega

/-- Settles O8: in each part of the page, taken in the decoder's order, the destination is known, and so is the truth of
every clause's right side: the named registers lie in the I/O page and differ from one another. -/
theorem decoderInsideTheTopPage : Obligations.DecoderInsideTheTopPage := by
  intro c ov a hw page
  obtain ⟨-, -, -, inputIf, inputDma, ifDma, -⟩ := c.wf_parts hw
  have topIff : a = 0xFFFF#16 ↔ a.toNat = 0xFFFF := BitVec.toNat_inj.symm
  by_cases above : 0xFF80 ≤ a.toNat
  · have notLow : ¬ a.toNat ≤ 0xFF7F := by omega
    obtain ⟨notInput, notIf, notDma⟩ := not_named_of_above hw above
    by_cases top : a.toNat = 0xFFFF
    · rw [decodeAddr_ie c ov a top]
      simp [topIff, top, notInput, notIf, notDma]
    · rw [decodeAddr_hram c ov a above (by have := a.isLt; omega)]
      simp [topIff, top, above, notLow, notInput, notIf, notDma, offsetHram]
  · have notTop : a.toNat ≠ 0xFFFF := by omega
    have low : a.toNat ≤ 0xFF7F := by omega
    rw [decodeAddr_io c ov a page (by omega), topIff]
    split_ifs with input ifReg dma block
    · simp [← input, above, notTop, input ▸ inputIf, input ▸ inputDma]
    · simp [input, ← ifReg, above, notTop, ifReg ▸ ifDma]
    · simp [input, ifReg, ← dma, above, notTop]
    · simp [input, ifReg, dma, above, notTop, low, (inDcBlocks_iff c a).1 block]
    · simp [input, ifReg, dma, above, notTop, low, mt (inDcBlocks_iff c a).2 block]

/-! ### The default I/O page (20_memory.md section 1) -/

/-- The default blocks 4 to 7 are the upper half of the I/O page (R125, D8). -/
theorem inDcBlocks_default_iff {a : Addr} (lo : 0xFF00 ≤ a.toNat) (hi : a.toNat ≤ 0xFF7F) :
    inDcBlocks Config.default a = true ↔ 0xFF40 ≤ a.toNat := by
  rw [inDcBlocks_iff]
  simp only [Config.default, List.mem_cons, List.not_mem_nil, or_false, ← BitVec.toNat_inj, field_toNat,
    BitVec.reduceToNat]
  omega

/-- Settles O9: the chain of the I/O page with the default addresses; below 0xFF40 neither the trigger nor a block
answers, from 0xFF40 a block does. -/
theorem defaultIoPageMap : Obligations.DefaultIoPageMap := by
  intro ov a lo hi
  have blocks := inDcBlocks_default_iff lo hi
  rw [decodeAddr_io Config.default ov a lo (by omega)]
  refine ite_link BitVec.toNat_inj.symm fun _ => ite_link BitVec.toNat_inj.symm fun _ => ?_
  have dma : a = Config.default.addrDma ↔ a.toNat = 0xFF46 := BitVec.toNat_inj.symm
  by_cases lower : a.toNat < 0xFF40
  · rw [if_pos lower, if_neg (mt dma.1 (by omega)), if_neg (mt blocks.1 (by omega))]
  · rw [if_neg lower]
    exact ite_link dma fun _ => if_pos (blocks.2 (by omega))

end Sys2Proof
end

section
/-! SUPPORT. The byte operations, entry by entry (41_byte_access.md): what an `RDB` and a `WRB` row do, by what the row's
destination reads and writes. -/

namespace Sys2Proof.Machine

/-! ### Byte steps (R140, R160) -/

/-- Settles O37: with admissible parameters a byte step is a byte access at the word's address, in the issued state; a
read keeps every store and the flag, a write keeps the flag. -/
theorem byteStepsGoThroughTheAddressDecoder : Obligations.ByteStepsGoThroughTheAddressDecoder := by
  intro s q rest hw hq
  refine ⟨fun rdb => ⟨step_rdb hw hq rdb, fun id => ?_, ?_⟩, fun wrb => ⟨none, step_wrb hw hq wrb, ?_⟩⟩
  · exact (readByte_memory ..).trans (State.issue_memory s q rest id)
  · exact readByte_ov ..
  · exact writeByte_ov ..

/-! ### `RDB` rows -/

section
variable {e : Entry} {a : Addr} {s : State}

/-- A row that reads without asking answers the state as it was, with the byte on the response port. -/
theorem exec_rdbRow_of_eq {v : Byte} (read : readDest (entryDest s.ov e a) (entryAddr s.cfg e a) s = (v, s)) :
    exec (rdbRow e a) s = .next { s with rsp := some (byteResult v) } := by
  rw [exec_rdbRow, read]
  rfl

theorem exec_rdbRow_of_byte {id : StoreId} {k : Nat} (names : (entryDest s.ov e a).byte = some (id, k)) :
    exec (rdbRow e a) s = .next { s with rsp := some (byteResult (s.peek id k)) } :=
  exec_rdbRow_of_eq (readDest_of_byte names _ s)

/-- Asking a collaborator changes nothing of the router (R57). -/
theorem returnByte_ask_sameRouter (s : State) (event : Byte → Event) : s.SameRouter (returnByte (s.ask event)) where
  ov := rfl
  stores id := by simp [State.ask]
  cfg := rfl
  requests := rfl
  img := rfl

/-- A row that asks a collaborator is one read event, and the answer is its response. -/
theorem exec_rdbRow_of_ask {event : Byte → Event}
    (read : readDest (entryDest s.ov e a) (entryAddr s.cfg e a) s = s.ask event) :
    ∃ t v, exec (rdbRow e a) s = .next t ∧ t.rsp = some (byteResult v) ∧ t.trace = s.trace ++ [event v] ∧
      s.SameRouter t :=
  ⟨returnByte (s.ask event), s.answer, by rw [exec_rdbRow, read], rfl, rfl, returnByte_ask_sameRouter s event⟩

end

/-- Settles O11: each row names one byte of a store, at the masked offset; in the image window the overlay flag selects
the store, and the offset into the image is the address itself. -/
theorem rdbOfAStoreReturnsTheStoredByte : Obligations.RdbOfAStoreReturnsTheStoredByte := by
  intro a s
  refine ⟨fun overlay page => ?boot, fun window image => ?rom, exec_rdbRow_of_byte (e := .vramTileLo) rfl,
    exec_rdbRow_of_byte (e := .vramTileHi) rfl, exec_rdbRow_of_byte (e := .vramMap) rfl,
    exec_rdbRow_of_byte (e := .eram) rfl, exec_rdbRow_of_byte (e := .wram) rfl,
    exec_rdbRow_of_byte (e := .wramMirror) rfl, exec_rdbRow_of_byte (e := .oamLo) rfl,
    exec_rdbRow_of_byte (e := .oamHi) rfl, exec_rdbRow_of_byte (e := .hram) rfl⟩
  case boot =>
    refine exec_rdbRow_of_byte (e := .boot) ?_
    rw [entryDest, imageWindowDest_boot s.ov a overlay (by omega)]
    rfl
  case rom =>
    refine exec_rdbRow_of_byte (e := .rom) ?_
    have notOverlay : ¬ (s.ov = true ∧ a.toNat < 0x100) := fun ⟨overlay, page⟩ => image ⟨overlay, by omega⟩
    rw [entryDest, imageWindowDest_rom s.ov a notOverlay, offsetRom_eq_self (by omega)]
    rfl

/-- Settles O12: both destinations read as 0x00 without asking. -/
theorem rdbOfStoragelessSpaceReturnsZero : Obligations.RdbOfStoragelessSpaceReturnsZero := fun _ _ =>
  ⟨exec_rdbRow_of_eq (e := .unusable) (v := 0x00#8) rfl, exec_rdbRow_of_eq (e := .iozero) (v := 0x00#8) rfl⟩

/-- Settles O13: each of the four destinations asks its collaborator once. -/
theorem rdbOfACollaboratorIsOneReadEvent : Obligations.RdbOfACollaboratorIsOneReadEvent := fun a _ =>
  ⟨exec_rdbRow_of_ask (e := .input) (a := a) rfl, exec_rdbRow_of_ask (e := .ifReg) (a := a) rfl,
    exec_rdbRow_of_ask (e := .dcreg) rfl, exec_rdbRow_of_ask (e := .ie) (a := a) rfl⟩

/-- Settles O14: a read at the trigger asks the display controller, with the trigger's own address. -/
theorem rdbOfTheDmaTriggerAsksTheDisplayController : Obligations.RdbOfTheDmaTriggerAsksTheDisplayController := fun s =>
  exec_rdbRow_of_ask (e := .dma) (a := s.cfg.addrDma) rfl

/-! ### `WRB` rows -/

/-- A row whose write has no effect leaves the state as it was, but for the response port. -/
theorem exec_wrbRow_of_noEffect {e : Entry} {a : Addr} {v : Byte} {s : State}
    (write : writeDest (entryDest s.ov e a) (entryAddr s.cfg e a) v s = s) :
    ∃ r, exec (wrbRow e a v) s = .next { s with rsp := r } :=
  ⟨none, by rw [exec_wrbRow, write]; rfl⟩

/-- A row at a collaborator's register is its one write event, but for the response port. -/
theorem exec_wrbRow_of_emit {e : Entry} {a : Addr} {v : Byte} {s : State} {event : Event}
    (write : writeDest (entryDest s.ov e a) (entryAddr s.cfg e a) v s = s.emit event) :
    ∃ r, exec (wrbRow e a v) s = .next { s with trace := s.trace ++ [event], rsp := r } :=
  ⟨none, by rw [exec_wrbRow, write]; rfl⟩

/-- The image window is read-only, whatever the flag (R161, R162). -/
theorem writeDest_imageWindowDest (ov : Bool) (a b : Addr) (v : Byte) (s : State) :
    writeDest (imageWindowDest ov a) b v s = s := by
  rcases imageWindowDest_cases ov a with ⟨-, -, boot⟩ | ⟨-, rom⟩
  · rw [boot]; rfl
  · rw [rom]; rfl

theorem storedOne_poke (s : State) (id : StoreId) (k : Nat) (v : Byte) : s.StoredOne (s.poke id k v) id k v where
  bytes := by simp
  sizes j := by
    rw [State.poke_memory]
    split
    · next same => rw [same, Memory.write_size]
    · rfl
  ov := by simp
  cfg := by simp
  requests := by simp
  img := by simp
  answers := by simp
  draws := by simp

section
variable {s t : State} {id : StoreId} {k : Nat} {v : Byte}

theorem State.StoredOne.emit (h : s.StoredOne t id k v) (e : Event) : s.StoredOne (t.emit e) id k v :=
  { h with
    bytes := fun j n => (State.emit_peek ..).trans (h.bytes j n)
    sizes := fun j => (congrArg Memory.size (State.emit_memory ..)).trans (h.sizes j) }

theorem State.StoredOne.returnNothing (h : s.StoredOne t id k v) : s.StoredOne t.returnNothing id k v :=
  { h with
    bytes := fun j n => (State.returnNothing_peek ..).trans (h.bytes j n)
    sizes := fun j => (congrArg Memory.size (State.returnNothing_memory ..)).trans (h.sizes j) }

/-- A write at a destination that names a byte of a writable store stores that one byte. -/
theorem writeDest_storedOne {d : Dest} (names : d.byte = some (id, k)) (writable : id ≠ .boot ∧ id ≠ .rom) (a : Addr)
    (v : Byte) (s : State) : s.StoredOne (writeDest d a v s) id k v := by
  cases d with
  | boot o => cases names; exact absurd rfl writable.1
  | rom o => cases names; exact absurd rfl writable.2
  | eram o | wram o | hram o => cases names; exact storedOne_poke ..
  | oam o => cases names; exact (storedOne_poke ..).emit _
  | vram o =>
    cases names
    simp only [writeDest]
    split
    · exact (storedOne_poke ..).emit _
    · exact storedOne_poke ..
  | _ => cases names

/-- A row at a writable store stores one byte and fires the store's hook, if it has one. -/
theorem exec_wrbRow_of_byte {e : Entry} {a : Addr} (names : (entryDest s.ov e a).byte = some (id, k))
    (writable : id ≠ .boot ∧ id ≠ .rom) :
    ∃ t, exec (wrbRow e a v) s = .next t ∧ s.StoredOne t id k v ∧
      t.trace = s.trace ++ writeEvents (entryDest s.ov e a) (entryAddr s.cfg e a) v :=
  ⟨_, exec_wrbRow e a v s, (writeDest_storedOne names writable _ v s).returnNothing,
    writeDest_trace (Dest.ne_dma_of_byte names) _ v s⟩

/-- The same at a store without a hook. -/
theorem exec_wrbRow_of_byte_silent {e : Entry} {a : Addr} (names : (entryDest s.ov e a).byte = some (id, k))
    (writable : id ≠ .boot ∧ id ≠ .rom) (silent : writeEvents (entryDest s.ov e a) (entryAddr s.cfg e a) v = []) :
    ∃ t, exec (wrbRow e a v) s = .next t ∧ s.StoredOne t id k v ∧ t.trace = s.trace := by
  simpa [silent] using exec_wrbRow_of_byte (v := v) names writable

end

/-- Settles O17: each row names one byte of a RAM store, and RAM has no hook. -/
theorem wrbOfARamStoresOneByte : Obligations.WrbOfARamStoresOneByte := fun _ _ _ =>
  ⟨exec_wrbRow_of_byte_silent (e := .eram) rfl (by decide) rfl,
    exec_wrbRow_of_byte_silent (e := .wram) rfl (by decide) rfl,
    exec_wrbRow_of_byte_silent (e := .wramMirror) rfl (by decide) rfl,
    exec_wrbRow_of_byte_silent (e := .hram) rfl (by decide) rfl⟩

/-- The three video RAM rows store one byte and fire the tile hook below the tile limit (R163). -/
theorem exec_wrbRow_vram {e : Entry} {a : Addr} {s : State} (vram : entryDest s.ov e a = .vram (offset13 a))
    (operand : entryAddr s.cfg e a = a) (v : Byte) :
    ∃ t, exec (wrbRow e a v) s = .next t ∧ s.StoredOne t .vram (offset13 a).toNat v ∧
      t.trace = if a.toNat < 0x9800 then s.trace ++ [.tile a v] else s.trace := by
  obtain ⟨t, ends, stored, trace⟩ := exec_wrbRow_of_byte (v := v) (congrArg Dest.byte vram) (by decide)
  refine ⟨t, ends, stored, ?_⟩
  rw [trace, vram, operand, writeEvents]
  split
  · rfl
  · exact List.append_nil _

/-- Settles O18: the rows of a store differ in nothing but their window, and each names one byte of it. -/
theorem wrbOfASharedStoreFiresItsHook : Obligations.WrbOfASharedStoreFiresItsHook := by
  intro a v s
  simp only [List.forall_mem_cons, List.not_mem_nil, false_imp_iff, implies_true, and_true]
  exact ⟨⟨exec_wrbRow_vram (e := .vramTileLo) rfl rfl v, exec_wrbRow_vram (e := .vramTileHi) rfl rfl v,
      exec_wrbRow_vram (e := .vramMap) rfl rfl v⟩,
    exec_wrbRow_of_byte (e := .oamLo) rfl (by decide), exec_wrbRow_of_byte (e := .oamHi) rfl (by decide)⟩

/-- Settles O19: the write of each of the four destinations leaves the state as it was. -/
theorem wrbOfReadOnlySpaceHasNoEffect : Obligations.WrbOfReadOnlySpaceHasNoEffect := fun a _ s =>
  ⟨exec_wrbRow_of_noEffect (e := .boot) (writeDest_imageWindowDest s.ov a ..),
    exec_wrbRow_of_noEffect (e := .rom) (writeDest_imageWindowDest s.ov a ..),
    exec_wrbRow_of_noEffect (e := .unusable) rfl, exec_wrbRow_of_noEffect (e := .iozero) rfl⟩

/-- Settles O20: the write of each of the four destinations is its one event. -/
theorem wrbOfACollaboratorIsOneWriteEvent : Obligations.WrbOfACollaboratorIsOneWriteEvent := fun a _ _ =>
  ⟨exec_wrbRow_of_emit (e := .input) (a := a) rfl, exec_wrbRow_of_emit (e := .ifReg) (a := a) rfl,
    exec_wrbRow_of_emit (e := .dcreg) rfl, exec_wrbRow_of_emit (e := .ie) (a := a) rfl⟩

end Sys2Proof.Machine
end

section
/-! SUPPORT. The DMA transfer (42_dma_engine.md R190 to R196): each iteration copies one byte, so a transfer is known once
every iteration's read is; then the source pages of R195, one by one. -/

namespace Sys2Proof.Machine

/-- Settles O22: the run is the model's own sequence of iterations, each a `dmaStep`. -/
theorem dmaRunsExactly160IterationsInOrder : Obligations.DmaRunsExactly160IterationsInOrder := fun v s =>
  ⟨fun n => dmaUpTo v n s, none, rfl, fun _ _ => rfl, rfl⟩

/-! ### What one read of a transfer gives -/

/-- The outcome `r` of a read in `u`: the byte `b`, the events `evs`, and one answer used up for each of them. -/
structure State.ReadsAs (u : State) (b : Byte) (evs : List Event) (r : Byte × State) : Prop where
  byte : r.1 = b
  trace : r.2.trace = u.trace ++ evs
  answers : r.2.answers = u.answers.drop evs.length
  draws : r.2.draws = u.draws + evs.length

/-- A read that asks nobody. -/
theorem State.ReadsAs.of_eq {u : State} {b : Byte} {r : Byte × State} (h : r = (b, u)) : u.ReadsAs b [] r := by
  subst h
  constructor <;> simp

/-- After `k` answers the next one is the `k`-th from the start. -/
theorem answer_eq_nthAnswer {s u : State} {k : Nat} (answers : u.answers = s.answers.drop k)
    (draws : u.draws = s.draws + k) : u.answer = Claims.nthAnswer s k := by
  have next : s.answers[k]? = u.answers.head? := by rw [answers, List.head?_drop]
  rw [State.answer, Claims.nthAnswer, next, ← draws]
  cases u.answers <;> rfl

/-- A read that asks a collaborator, after `k` answers since `s`. -/
theorem State.ReadsAs.of_ask {s u : State} {k : Nat} {r : Byte × State} {event : Byte → Event}
    (answers : u.answers = s.answers.drop k) (draws : u.draws = s.draws + k) (h : r = u.ask event) :
    u.ReadsAs (Claims.nthAnswer s k) [event (Claims.nthAnswer s k)] r := by
  subst h
  rw [← answer_eq_nthAnswer answers draws]
  constructor <;> simp [State.ask]

/-! ### The iterations of a transfer, from what each of them reads -/

/-- How many answers the first `n` iterations use up, when iteration `i` emits the read events `reads i`. -/
def askedBefore (reads : Nat → List Event) (n : Nat) : Nat := ((List.range n).flatMap reads).length

@[simp] theorem askedBefore_zero (reads : Nat → List Event) : askedBefore reads 0 = 0 := rfl

theorem askedBefore_succ (reads : Nat → List Event) (n : Nat) :
    askedBefore reads (n + 1) = askedBefore reads n + (reads n).length := by
  simp [askedBefore, List.range_succ]

theorem askedBefore_nil (n : Nat) : askedBefore (fun _ => []) n = 0 := by simp [askedBefore]

/-- The events of the first `n` iterations: each one's read events, then its `SPRITE` (R192). -/
def transferEvents (byte : Nat → Byte) (reads : Nat → List Event) (n : Nat) : List Event :=
  (List.range n).flatMap fun i => reads i ++ [.sprite (dmaDest i) (byte i)]

@[simp] theorem transferEvents_zero (byte : Nat → Byte) (reads : Nat → List Event) :
    transferEvents byte reads 0 = [] := rfl

theorem transferEvents_succ (byte : Nat → Byte) (reads : Nat → List Event) (n : Nat) :
    transferEvents byte reads (n + 1) = transferEvents byte reads n ++ reads n ++ [.sprite (dmaDest n) (byte n)] := by
  simp [transferEvents, List.range_succ]

theorem transferEvents_length (byte : Nat → Byte) (reads : Nat → List Event) (n : Nat) :
    (transferEvents byte reads n).length = askedBefore reads n + n := by
  induction n with
  | zero => rfl
  | succ n ih =>
    simp only [transferEvents_succ, askedBefore_succ, List.length_append, List.length_singleton, ih]
    omega

/-- `u` is `s` after `n` iterations that copied the bytes `byte i` and emitted the read events `reads i`. (The response
may differ.) -/
structure State.Copied (s : State) (byte : Nat → Byte) (reads : Nat → List Event) (n : Nat) (u : State) : Prop where
  oam : ∀ i, u.peek .oam i = if i < n then byte i else s.peek .oam i
  trace : u.trace = s.trace ++ transferEvents byte reads n
  stores : ∀ id, id ≠ .oam → u.memory id = s.memory id
  ov : u.ov = s.ov
  cfg : u.cfg = s.cfg
  requests : u.requests = s.requests
  img : u.img = s.img
  answers : u.answers = s.answers.drop (askedBefore reads n)
  draws : u.draws = s.draws + askedBefore reads n

section
variable {s u : State} {v : Byte} {byte : Nat → Byte} {reads : Nat → List Event} {n : Nat}

theorem State.Copied.refl (s : State) (byte : Nat → Byte) (reads : Nat → List Event) : s.Copied byte reads 0 s := by
  constructor <;> simp

theorem State.Copied.returnNothing (h : s.Copied byte reads n u) : s.Copied byte reads n u.returnNothing :=
  { h with
    oam := fun i => (State.returnNothing_peek ..).trans (h.oam i)
    stores := fun id other => (State.returnNothing_memory ..).trans (h.stores id other) }

/-- A byte that no iteration so far has overwritten. -/
theorem State.Copied.peek_eq (h : s.Copied byte reads n u) {id : StoreId} {k : Nat} (kept : id ≠ .oam ∨ n ≤ k) :
    u.peek id k = s.peek id k := by
  by_cases hid : id = .oam
  · subst hid
    rw [h.oam, if_neg (by simpa using kept)]
  · rw [State.peek, h.stores id hid, State.peek]

theorem State.Copied.dmaStep (h : s.Copied byte reads n u)
    (read : u.ReadsAs (byte n) (reads n) (readByte (dmaRead v n) u)) :
    s.Copied byte reads (n + 1) (dmaStep v n u) where
  oam i := by
    have same : (readByte (dmaRead v n) u).2.peek .oam i = u.peek .oam i :=
      congrArg (Memory.read · .oam i) (readByte_memory ..)
    simp only [Machine.dmaStep, State.emit_peek, State.poke_peek, true_and, read.byte, same, h.oam]
    rcases Nat.lt_trichotomy i n with lt | rfl | gt
    · rw [if_neg (by omega), if_pos lt, if_pos (by omega)]
    · rw [if_pos rfl, if_pos (by omega)]
    · rw [if_neg (by omega), if_neg (by omega), if_neg (by omega)]
  trace := by simp [Machine.dmaStep, read.trace, read.byte, h.trace, transferEvents_succ]
  stores id other := by simp [Machine.dmaStep, other, h.stores id other]
  ov := by simp [Machine.dmaStep, h.ov]
  cfg := by simp [Machine.dmaStep, h.cfg]
  requests := by simp [Machine.dmaStep, h.requests]
  img := by simp [Machine.dmaStep, h.img]
  answers := by simp [Machine.dmaStep, read.answers, h.answers, askedBefore_succ]
  draws := by simp [Machine.dmaStep, read.draws, h.draws, askedBefore_succ, Nat.add_assoc]

/-- The whole transfer, from the reads of its iterations: iteration `i` is known to read as it should in whatever state
the ones before it can have left. -/
theorem exec_wrbDma_copied (read : ∀ i, i < 160 → ∀ u, s.Copied byte reads i u →
      u.ReadsAs (byte i) (reads i) (readByte (dmaRead v i) u)) :
    ∃ t, exec (.wrbDma v) s = .next t ∧ s.Copied byte reads 160 t := by
  have upTo (n : Nat) (len : n ≤ 160) : s.Copied byte reads n (dmaUpTo v n s) := by
    induction n with
    | zero => exact .refl s byte reads
    | succ n ih =>
      have copied := ih (by omega)
      exact copied.dmaStep (read n (by omega) _ copied)
  exact ⟨_, rfl, (upTo 160 (Nat.le_refl _)).returnNothing⟩

end

/-- Inside its page a read address is `V * 256 + i` (R86). -/
theorem dmaRead_toNat (v : Byte) {i : Nat} (h : i < 160) : (dmaRead v i).toNat = v.toNat * 256 + i := by
  have source : (dmaSource v).toNat = v.toNat * 2 ^ 8 + (0x00#8).toNat := append_toNat v 0x00#8
  have page := v.isLt
  rw [dmaRead, BitVec.toNat_add, source, BitVec.toNat_ofNat, BitVec.toNat_ofNat]
  omega

/-! ### The pages below the I/O page (R195) -/

/-- The byte a read address below the I/O page names: the store and the offset, page by page. -/
theorem readByte_page {s u : State} {v : Byte} {reads : Nat → List Event} {i : Nat} (hv : v ≠ 0xFF#8) (hi : i < 160)
    (h : s.Copied (Claims.pageByte v s) reads i u) : readByte (dmaRead v i) u = (Claims.pageByte v s i, u) := by
  have addr := dmaRead_toNat v hi
  have below : v.toNat < 0xFF := by
    have ne : v.toNat ≠ 0xFF := fun page => hv (BitVec.eq_of_toNat_eq page)
    have lt := v.isLt
    omega
  have named {id : StoreId} {k : Nat} (kept : id ≠ .oam ∨ i ≤ k)
      (names : (decodeAddr u.cfg u.ov (dmaRead v i)).byte = some (id, k)) :
      readByte (dmaRead v i) u = (s.peek id k, u) := by rw [readByte_of_byte names, h.peek_eq kept]
  unfold Claims.pageByte
  split_ifs with image boot vram eram wram
  · refine named (.inl nofun) ?_
    rw [decodeAddr_image _ _ _ (by omega), imageWindowDest_boot _ _ (h.ov.trans boot.2) (by omega), Dest.byte,
      offsetPage_toNat, addr, show (v.toNat * 256 + i) % 256 = i by omega]
  · refine named (.inl nofun) ?_
    have off : ¬ (u.ov = true ∧ (dmaRead v i).toNat < 0x100) := fun ⟨ov, first⟩ => boot ⟨by omega, h.ov ▸ ov⟩
    rw [decodeAddr_image _ _ _ (by omega), imageWindowDest_rom _ _ off, offsetRom_eq_self (by omega), Dest.byte, addr]
  · refine named (.inl nofun) ?_
    rw [decodeAddr_vram _ _ _ (by omega) (by omega), Dest.byte, offset13_toNat, addr]
  · refine named (.inl nofun) ?_
    rw [decodeAddr_eram _ _ _ (by omega) (by omega), Dest.byte, offset13_toNat, addr]
  · refine named (.inl nofun) ?_
    rw [decodeAddr_wram _ _ _ (by omega) (by omega), Dest.byte, offset13_toNat, addr]
  · refine named (.inr (Nat.le_refl i)) ?_
    rw [decodeAddr_oam _ _ _ (by omega) (by omega), Dest.byte, offsetPage_toNat, addr,
      show (v.toNat * 256 + i) % 256 = i by omega]

/-- Settles O23: no iteration asks anybody, and each reads the page's byte as it was before the transfer: below the
sprite table the source is not written at all, and the sprite table is read at the offset still to be written. -/
theorem dmaCopiesTheSourcePage : Obligations.DmaCopiesTheSourcePage := by
  intro v s hv
  obtain ⟨t, ends, copied⟩ := exec_wrbDma_copied (byte := Claims.pageByte v s) (reads := fun _ => [])
    fun i hi u h => .of_eq (readByte_page hv hi h)
  refine ⟨t, ends, copied.oam, ?_, copied.stores, copied.ov, copied.cfg, copied.requests, copied.img, ?_, ?_⟩
  · rw [copied.trace, List.map_eq_flatMap]
    rfl
  · rw [copied.answers, askedBefore_nil, List.drop_zero]
  · rw [copied.draws, askedBefore_nil, Nat.add_zero]

/-! ### The I/O page (R195 last row, R196) -/

/-- The first `n` iterations of a transfer from the I/O page ask the input device at index 0x00, the interrupt controller
at 0x0F and the display controller at the 64 from 0x40. -/
theorem askedBefore_ioPageReads (s : State) (n : Nat) :
    askedBefore (Claims.ioPageReads s) n = min n 1 + min (n - 0x0F) 1 + min (n - 0x40) 64 := by
  induction n with
  | zero => rfl
  | succ n ih =>
    rw [askedBefore_succ, ih, Claims.ioPageReads]
    split_ifs <;> simp only [List.length_singleton, List.length_nil] <;> omega

/-- Iteration `i` of a transfer from the I/O page, by the default map of the page. -/
theorem readsAs_ioPage {s u : State} {i : Nat} (hc : s.cfg = Config.default) (hi : i < 160)
    (h : s.Copied (Claims.ioPageByte s) (Claims.ioPageReads s) i u) :
    u.ReadsAs (Claims.ioPageByte s i) (Claims.ioPageReads s i) (readByte (dmaRead 0xFF#8 i) u) := by
  have addr : (dmaRead 0xFF#8 i).toNat = 0xFF00 + i := dmaRead_toNat 0xFF#8 hi
  have cfg : u.cfg = Config.default := h.cfg.trans hc
  have asks {k : Nat} {event : Byte → Event} (count : askedBefore (Claims.ioPageReads s) i = k)
      (asked : readByte (dmaRead 0xFF#8 i) u = u.ask event) :
      u.ReadsAs (Claims.nthAnswer s k) [event (Claims.nthAnswer s k)] (readByte (dmaRead 0xFF#8 i) u) :=
    .of_ask (count ▸ h.answers) (count ▸ h.draws) asked
  have count := askedBefore_ioPageReads s i
  have dest (page : i < 0x80) : decodeAddr u.cfg u.ov (dmaRead 0xFF#8 i) = _ :=
    cfg ▸ defaultIoPageMap u.ov (dmaRead 0xFF#8 i) (by omega) (by omega)
  by_cases input : i = 0x00
  · rw [Claims.ioPageByte, Claims.ioPageReads, if_pos input, if_pos input]
    refine asks (by omega) ?_
    rw [readByte, dest (by omega), if_pos (by omega)]
    rfl
  by_cases ifReg : i = 0x0F
  · rw [Claims.ioPageByte, Claims.ioPageReads, if_neg input, if_neg input, if_pos ifReg, if_pos ifReg]
    refine asks (by omega) ?_
    rw [readByte, dest (by omega), if_neg (by omega), if_pos (by omega)]
    rfl
  rw [Claims.ioPageByte, Claims.ioPageReads, if_neg input, if_neg input, if_neg ifReg, if_neg ifReg]
  by_cases zero : i < 0x40
  · rw [if_pos zero, if_neg (by omega)]
    refine .of_eq ?_
    rw [readByte, dest (by omega), if_neg (by omega), if_neg (by omega), if_pos (by omega)]
    rfl
  by_cases dc : i < 0x80
  · rw [if_neg zero, if_pos dc, if_pos ⟨by omega, dc⟩]
    refine asks (event := .dcRd (dmaRead 0xFF#8 i)) (by omega) ?_
    rw [readByte, dest dc, if_neg (by omega), if_neg (by omega), if_neg (by omega)]
    split <;> rfl
  · rw [if_neg zero, if_neg dc, if_neg (by omega)]
    refine .of_eq ?_
    have names : (decodeAddr u.cfg u.ov (dmaRead 0xFF#8 i)).byte = some (.hram, i - 0x80) := by
      rw [decodeAddr_hram _ _ _ (by omega) (by omega), Dest.byte, offsetHram_toNat, addr,
        show (0xFF00 + i) % 128 = i - 0x80 by omega]
    rw [readByte_of_byte names, h.peek_eq (.inl (by decide))]

/-- Settles O24: the iterations are those of `readsAs_ioPage`, and 66 of the 160 ask. -/
theorem dmaFromTheIoPageAsks66Registers : Obligations.DmaFromTheIoPageAsks66Registers := by
  intro s hc
  obtain ⟨t, ends, copied⟩ := exec_wrbDma_copied fun _ hi _ h => readsAs_ioPage hc hi h
  have asked : askedBefore (Claims.ioPageReads s) 160 = 66 := askedBefore_ioPageReads s 160
  refine ⟨t, ends, copied.oam, copied.trace, ?_, copied.stores, copied.ov, copied.cfg, copied.requests, copied.img, ?_,
    ?_⟩
  · rw [copied.trace, List.length_append, transferEvents_length, asked]
  · rw [copied.answers, asked]
  · rw [copied.draws, asked]

end Sys2Proof.Machine
end

section
/-! SUPPORT. Word accesses (43_word_access.md R200 to R203): two byte accesses each, the order of the two reads, and the
words that straddle two regions. Two bytes that both ask a collaborator are the only ones whose order shows. -/

namespace Sys2Proof

/-- Whether a byte read at a destination asks a collaborator (R57). -/
def Dest.asks : Dest → Bool
  | .input | .ifReg | .ie | .dma | .dcreg => true
  | .boot _ | .rom _ | .vram _ | .eram _ | .wram _ | .oam _ | .hram _ | .unusable | .iozero => false

theorem Dest.asks_of_byte {d : Dest} {b : StoreId × Nat} (names : d.byte = some b) : d.asks = false := by
  cases d <;> cases names <;> rfl

theorem imageWindowDest_asks (ov : Bool) (a : Addr) : (imageWindowDest ov a).asks = false := by
  rcases imageWindowDest_cases ov a with ⟨-, -, boot⟩ | ⟨-, rom⟩
  · rw [boot]; rfl
  · rw [rom]; rfl

/-- The addresses that ask with the default parameters (R121, R126; 20_memory.md section 1). -/
theorem asks_default_range {ov : Bool} {a : Addr} (asks : (decodeAddr Config.default ov a).asks = true) :
    a.toNat = 0xFF00 ∨ a.toNat = 0xFF0F ∨ (0xFF40 ≤ a.toNat ∧ a.toNat ≤ 0xFF7F) ∨ a.toNat = 0xFFFF := by
  rcases decodeAddr_cases Config.default ov a with ⟨-, d⟩ | ⟨-, -, d⟩ | ⟨-, -, d⟩ | ⟨-, -, d⟩ | ⟨-, -, d⟩ |
    ⟨-, -, d⟩ | ⟨top, -⟩ | ⟨-, -, d⟩ | ⟨lo, hi, -⟩
  · rw [d, imageWindowDest_asks] at asks; cases asks
  · rw [d] at asks; cases asks
  · rw [d] at asks; cases asks
  · rw [d] at asks; cases asks
  · rw [d] at asks; cases asks
  · rw [d] at asks; cases asks
  · exact .inr (.inr (.inr top))
  · rw [d] at asks; cases asks
  · by_cases zero : a.toNat < 0xFF40
    · rw [defaultIoPageMap ov a lo (by omega), if_pos zero] at asks
      split_ifs at asks with input ifReg
      · exact .inl input
      · exact .inr (.inl ifReg)
      · cases asks
    · exact .inr (.inr (.inl ⟨by omega, by omega⟩))

end Sys2Proof

namespace Sys2Proof.Machine

/-! ### The two reads of `RDW` in the order of `RDW_ORDER` (R200) -/

theorem readWord_of_lowFirst {s : State} (order : s.cfg.rdwOrder = .lowFirst) (a : Addr) :
    readWord a s = readWordLowFirst a s := by simp only [readWord, order]

theorem readWord_of_highFirst {s : State} (order : s.cfg.rdwOrder = .highFirst) (a : Addr) :
    readWord a s = readWordHighFirst a s := by simp only [readWord, order]

theorem readWord_of_either {s : State} (order : s.cfg.rdwOrder = .either) (a : Addr) :
    readWord a s = readWordLowFirst a s.draw ∨ readWord a s = readWordHighFirst a s.draw := by
  simp only [readWord, order]
  split
  · exact .inl rfl
  · exact .inr rfl

/-- Settles O25: the model's word read is the two byte reads in the order its parameter asks for. -/
theorem rdwIsTwoByteReads : Obligations.RdwIsTwoByteReads := fun a s =>
  ⟨readWord a s, rfl, (readWord_of_lowFirst · a), (readWord_of_highFirst · a), (readWord_of_either · a)⟩

/-- Settles O26: the model's word write is the two byte writes, and then the response port is emptied. -/
theorem wrwIsTwoByteWritesLowThenHigh : Obligations.WrwIsTwoByteWritesLowThenHigh := fun _ _ _ => ⟨none, rfl⟩

/-! ### A byte that asks nobody can be read first or last -/

theorem State.SameRouter.refl (s : State) : s.SameRouter s := ⟨rfl, fun _ => rfl, rfl, rfl, rfl⟩

theorem readByte_sameRouter (a : Addr) (s : State) : s.SameRouter (readByte a s).2 where
  ov := readByte_ov a s
  stores := readByte_memory a s
  cfg := readByte_cfg a s
  requests := readByte_requests a s
  img := readByte_img a s

theorem readWord_sameRouter (a : Addr) (s : State) : s.SameRouter (readWord a s) := by
  obtain ⟨cfg, ov, requests, img, stores⟩ := readWord_frame a s
  exact ⟨ov, stores, cfg, requests, img⟩

theorem readDest_of_quiet {d : Dest} (quiet : d.asks = false) {s t : State} (same : s.SameRouter t) (a : Addr) :
    readDest d a t = ((readDest d a s).1, t) := by
  cases d with
  | boot o | rom o | vram o | eram o | wram o | oam o | hram o =>
    exact Prod.ext (congrArg (Memory.read · _ o.toNat) (same.stores _)) rfl
  | unusable | iozero => rfl
  | input | ifReg | ie | dma | dcreg => cases quiet

section
variable {s : State} {a : Addr}

/-- A byte read that asks nobody gives the same byte in every state of the same router, and leaves that state. -/
theorem readByte_of_quiet (quiet : (decodeAddr s.cfg s.ov a).asks = false) {t : State} (same : s.SameRouter t) :
    readByte a t = ((readByte a s).1, t) := by
  rw [readByte, same.cfg, same.ov]
  exact readDest_of_quiet quiet same a

/-- The order of the two reads does not show where one of them asks nobody. -/
theorem readWordLowFirst_eq_highFirst (quiet : (decodeAddr s.cfg s.ov a).asks = false ∨
      (decodeAddr s.cfg s.ov (nextAddr a)).asks = false) : readWordLowFirst a s = readWordHighFirst a s := by
  rcases quiet with low | high
  · have first := readByte_of_quiet low (.refl s)
    have last := readByte_of_quiet low (readByte_sameRouter (nextAddr a) s)
    simp only [readWordLowFirst, readWordHighFirst, last]
    rw [first]
  · have first := readByte_of_quiet high (.refl s)
    have last := readByte_of_quiet high (readByte_sameRouter a s)
    simp only [readWordLowFirst, readWordHighFirst, last]
    rw [first]

/-- Where the high byte asks nobody, a word read is its low-first order, perhaps after a free draw. -/
theorem readWord_of_quiet_high (quiet : (decodeAddr s.cfg s.ov (nextAddr a)).asks = false) :
    readWord a s = readWordLowFirst a s ∨ readWord a s = readWordLowFirst a s.draw := by
  have now := readWordLowFirst_eq_highFirst (.inr quiet)
  have drawn := readWordLowFirst_eq_highFirst (s := s.draw) (.inr quiet)
  rcases readWord_cases a s with h | h | h | h
  · exact .inl h
  · exact .inl (h.trans now.symm)
  · exact .inr h
  · exact .inr (h.trans drawn.symm)

end

theorem nextAddr_toNat (a : Addr) : (nextAddr a).toNat = (a.toNat + 1) % 65536 := BitVec.toNat_add a 1#16

/-- Settles O28: of two neighbouring addresses that both ask, the lower lies in 0xFF40 to 0xFF7E. -/
theorem rdwOrderShowsOnlyInsideTheRegisterBlocks : Obligations.RdwOrderShowsOnlyInsideTheRegisterBlocks := by
  intro a s hc outside
  apply readWordLowFirst_eq_highFirst
  rw [hc]
  by_contra both
  simp only [not_or, Bool.not_eq_false] at both
  obtain ⟨low, high⟩ := both
  have lowRange := asks_default_range low
  have highRange := asks_default_range high
  rw [nextAddr_toNat] at highRange
  omega

/-! ### Words that straddle two regions (R202, R203) -/

theorem writeByte_image {a : Addr} (window : a.toNat < 0x8000) (v : Byte) (s : State) : writeByte a v s = s := by
  rw [writeByte, decodeAddr_image _ _ a window, writeDest_imageWindowDest]

/-- A word read of two stored bytes emits nothing. -/
theorem readWord_trace_of_byte {a : Addr} {s : State} {b c : StoreId × Nat}
    (low : (decodeAddr s.cfg s.ov a).byte = some b) (high : (decodeAddr s.cfg s.ov (nextAddr a)).byte = some c) :
    (readWord a s).trace = s.trace := by
  have lowFirst (u : State) (cfg : u.cfg = s.cfg) (ov : u.ov = s.ov) :
      (readWordLowFirst a u).trace = u.trace := by
    rw [← cfg, ← ov] at low high
    simp [readWordLowFirst, readByte_of_byte low, readByte_of_byte high]
  rcases readWord_of_quiet_high (Dest.asks_of_byte high) with h | h <;> rw [h]
  · exact lowFirst s rfl rfl
  · exact lowFirst s.draw rfl rfl

/-- Settles O29: the byte at 0x7FFF is outside the first page, so it is the image's, read-only, and the byte at 0x8000 is
the first of video RAM, below the tile limit. -/
theorem wordAtTheEndOfTheImageStraddles : Obligations.WordAtTheEndOfTheImageStraddles := by
  intro w s
  have low : decodeAddr s.cfg s.ov 0x7FFF#16 = .rom 0x7FFF#16 := by
    rw [decodeAddr_image _ _ _ (by decide), imageWindowDest_rom _ _ (fun ⟨_, page⟩ => absurd page (by decide))]
    rfl
  have high : decodeAddr s.cfg s.ov (nextAddr 0x7FFF#16) = .vram 0 := decodeAddr_vram _ _ _ (by decide) (by decide)
  have lowStored := congrArg Dest.byte low
  have highStored := congrArg Dest.byte high
  constructor
  · refine ⟨_, rfl, ?_⟩
    rw [writeWord, writeByte_image (a := 0x7FFF#16) (by decide), writeByte, high]
    exact ⟨(writeDest_storedOne rfl (by decide) _ _ s).returnNothing,
      writeDest_trace (d := .vram 0) (Dest.ne_dma_of_byte rfl) _ _ s⟩
  · exact ⟨_, rfl, readWord_rsp lowStored highStored, readWord_sameRouter ..,
      readWord_trace_of_byte lowStored highStored⟩

theorem readByte_top (s : State) : readByte 0xFFFF#16 s = s.ask .icGetIE := by
  rw [readByte, decodeAddr_ie _ _ _ rfl]
  rfl

theorem readByte_zero (s : State) :
    readByte 0x0000#16 s = (if s.ov = true then s.peek .boot 0 else s.peek .rom 0, s) := by
  rw [readByte, decodeAddr_image _ _ _ (by decide)]
  by_cases overlay : s.ov = true
  · rw [imageWindowDest_boot _ _ overlay (by decide), if_pos overlay]
    rfl
  · rw [imageWindowDest_rom _ _ (fun both => overlay both.1), if_neg overlay]
    rfl

theorem readWordLowFirst_top (s : State) : readWordLowFirst 0xFFFF#16 s =
    (s.ask .icGetIE).2.returnWord (wordOf (if s.ov = true then s.peek .boot 0 else s.peek .rom 0) s.answer) := by
  have next : nextAddr 0xFFFF#16 = 0x0000#16 := by decide
  simp only [readWordLowFirst, readByte_top, next, readByte_zero]
  rfl

/-- Settles O30: the low byte is the interrupt controller's, the high byte is in the image window, which asks nobody and
is read-only. -/
theorem wordAtTheTopOfTheAddressSpaceWraps : Obligations.WordAtTheTopOfTheAddressSpaceWraps := by
  intro w s
  constructor
  · refine ⟨none, ?_⟩
    rw [exec, execWrw, writeWord, writeByte_image (by decide), writeByte, decodeAddr_ie _ _ _ rfl]
    rfl
  · have quiet : (decodeAddr s.cfg s.ov (nextAddr 0xFFFF#16)).asks = false := by
      rw [decodeAddr_image _ _ _ (by decide), imageWindowDest_asks]
    rcases readWord_of_quiet_high quiet with h | h <;> rw [readWordLowFirst_top] at h
    · refine ⟨_, s.answer, rfl, ?_, ?_, readWord_sameRouter ..⟩ <;> rw [h] <;> rfl
    · refine ⟨_, s.draw.answer, rfl, ?_, ?_, readWord_sameRouter ..⟩ <;> rw [h] <;> rfl

end Sys2Proof.Machine
end

section
/-! SUPPORT. `LOAD` and `BOOTOFF` (44_control_ops.md R210, R212): the image that was loaded is read back byte by byte,
and the two operations touch nothing but the image and the overlay flag. -/

namespace Sys2Proof.Machine

@[simp] theorem Image.memory_read (img : Image) (id : StoreId) (k : Nat) : img.memory.read id k = img.byte k := by
  rw [Memory.read, Image.byte, Image.memory]
  cases cellsGet img.cells k <;> rfl

@[simp] theorem State.loadImage_peek_rom (s : State) (k : Nat) : s.loadImage.peek .rom k = s.img.byte k := by
  rw [State.peek, State.loadImage_memory, if_pos rfl, Image.memory_read]

theorem State.loadImage_memory_of_ne (s : State) {id : StoreId} (h : id ≠ .rom) :
    s.loadImage.memory id = s.memory id := by
  rw [State.loadImage_memory, if_neg h]

theorem exec_load_of_long {s : State} (long : Config.romMinLen ≤ s.img.len) :
    exec .load s = .next s.loadImage.returnNothing := by
  rw [exec, execLoad, if_neg (Nat.not_lt.2 long)]

theorem exec_load_of_short {s : State} (short : s.img.len < Config.romMinLen) :
    exec .load s = .refused (.shortImage s.img.len) := by
  rw [exec, execLoad, if_pos short]

/-- Settles O33: a long enough image becomes the program image, no other store is written, and a shorter one is
refused. -/
theorem loadReplacesTheImageWholesale : Obligations.LoadReplacesTheImageWholesale := by
  intro s
  refine ⟨fun long => ⟨_, exec_load_of_long long, s.img.memory_size, fun k => ?_, fun id other => ?_,
    rfl, rfl, rfl, rfl, rfl, rfl, rfl⟩, exec_load_of_short⟩
  · rw [State.returnNothing_peek, State.loadImage_peek_rom]
  · rw [State.returnNothing_memory, s.loadImage_memory_of_ne other]

/-- Settles O35: `BOOTOFF` writes the flag alone, and a write at 0xFF50 is one event like every write at the display
controller. -/
theorem bootoffClearsTheOverlay : Obligations.BootoffClearsTheOverlay := by
  intro v s
  obtain ⟨-, -, displayWrite, -⟩ := wrbOfACollaboratorIsOneWriteEvent 0xFF50#16 v s
  exact ⟨⟨none, rfl⟩, displayWrite⟩

end Sys2Proof.Machine
end

section
/-! SUPPORT. Refusal, completion and the free choices (60_exceptions.md R230, R232, R241): the two requests a step
refuses, the end state of every other one, and where a collaborator's answer comes from. -/

namespace Sys2Proof.Machine

/-! ### Refused and completed requests (R230, R232) -/

/-- A request the step completes: its command is not reserved, and a `LOAD` comes with a long enough image. -/
def Request.completes (q : Request) : Prop :=
  (opCmd q.word).toNat < 7 ∧ (opCmd q.word = 0x04#8 → Config.romMinLen ≤ q.img.len)

theorem Request.not_completes_iff (q : Request) :
    ¬ q.completes ↔ 7 ≤ (opCmd q.word).toNat ∨ (opCmd q.word = 0x04#8 ∧ q.img.len < Config.romMinLen) := by
  rw [Request.completes, not_and_or, not_lt, Classical.not_imp, not_le]

/-- Every operation has an end state, `LOAD` because the request's long enough image is the one on the side port. -/
theorem Ends.exists_of_completes {q : Request} {u : State} (hw : u.cfg.wf = true) (img : u.img = q.img)
    (h : q.completes) : ∃ t, Ends q u t := by
  obtain ⟨code, long⟩ := h
  obtain ⟨e, he⟩ := findEntry_isSome hw u.ov (opAddr q.word)
  rcases command_cases code with h | h | h | h | h | h | h
  · exact ⟨_, .rdb e h he⟩
  · exact ⟨_, .wrb e h he⟩
  · exact ⟨_, .rdw h⟩
  · exact ⟨_, .wrw h⟩
  · exact ⟨_, .load h (img ▸ long h)⟩
  · exact ⟨_, .reset h⟩
  · exact ⟨_, .bootoff h⟩

section
variable {s : State} {q : Request} {rest : List Request} (hq : s.requests = q :: rest)
include hq

theorem step_of_completes (hw : s.cfg.wf = true) (h : q.completes) :
    ∃ t, step s = .next t ∧ t.requests = rest ∧ t.img = q.img := by
  obtain ⟨t, ends⟩ := Ends.exists_of_completes (u := s.issue q rest) hw rfl h
  obtain ⟨requests, -⟩ := ends.requests_cfg
  exact ⟨t, step_of_ends hq ends, requests, ends.img⟩

theorem step_of_reserved (h : 7 ≤ (opCmd q.word).toNat) : step s = .refused (.reservedCommand (opCmd q.word)) := by
  simp only [step, hq, decode_reserved _ _ h, refusalOf]

theorem step_of_shortLoad (h : opCmd q.word = 0x04#8) (short : q.img.len < Config.romMinLen) :
    step s = .refused (.shortImage q.img.len) := by
  rw [stepRunsTheDecodedOperation.1 s q rest .load hq (decode_load s.cfg s.ov h)]
  exact exec_load_of_short short

end

/-- Settles O39: the request's operation has an end state, and no operation touches the rest of the requests or the
image on the side port. -/
theorem everyOtherRequestCompletes : Obligations.EveryOtherRequestCompletes := fun _ _ _ hw hq code long =>
  step_of_completes hq hw ⟨code, long⟩

/-- Settles O38: an idle step and a request that completes answer a next state; the other requests are the two cases,
each with its own refusal. -/
theorem stepRefusesExactlyTheTwoCases : Obligations.StepRefusesExactlyTheTwoCases := by
  intro s r hw
  constructor
  · intro refused
    cases hq : s.requests with
    | nil =>
      rw [stepRunsTheDecodedOperation.2 s hq] at refused
      cases refused
    | cons q rest =>
      refine ⟨q, rest, rfl, ?_⟩
      by_cases completes : q.completes
      · obtain ⟨t, next, -⟩ := step_of_completes hq hw completes
        rw [next] at refused
        cases refused
      · rcases q.not_completes_iff.1 completes with reserved | ⟨load, short⟩
        · rw [step_of_reserved hq reserved] at refused
          cases refused
          exact .inl ⟨reserved, rfl⟩
        · rw [step_of_shortLoad hq load short] at refused
          cases refused
          exact .inr ⟨load, short, rfl⟩
  · rintro ⟨q, rest, hq, ⟨reserved, rfl⟩ | ⟨load, short, rfl⟩⟩
    · exact step_of_reserved hq reserved
    · exact step_of_shortLoad hq load short

/-! ### The collaborator's answer (R241) -/

theorem State.answer_of_cons {s : State} {v : Byte} {rest : List Byte} (h : s.answers = v :: rest) : s.answer = v := by
  rw [State.answer, h]

theorem State.answer_of_nil {s : State} (h : s.answers = []) : s.answer = Config.freeAnswer s.draws := by
  rw [State.answer, h]

/-- Each of the five rows asks its collaborator once and returns the answer. -/
theorem exec_collaboratorReads (a : Addr) (s : State) :
    ∀ i ∈ Claims.collaboratorReads a, ∃ event, exec i s = .next (returnByte (s.ask event)) := by
  simp only [Claims.collaboratorReads, List.forall_mem_cons, List.not_mem_nil, false_imp_iff, implies_true, and_true]
  exact ⟨⟨_, exec_rdbRow .input a s⟩, ⟨_, exec_rdbRow .ifReg a s⟩, ⟨_, exec_rdbRow .dma a s⟩,
    ⟨_, exec_rdbRow .dcreg a s⟩, ⟨_, exec_rdbRow .ie a s⟩⟩

/-- Settles O15: the response is the answer asked for, whatever the event; one answer and one draw are used up. -/
theorem readEventsTakeTheLinedUpAnswer : Obligations.ReadEventsTakeTheLinedUpAnswer := by
  intro a s i hi
  obtain ⟨event, runs⟩ := exec_collaboratorReads a s i hi
  have rsp : (returnByte (s.ask event)).rsp = some (byteResult s.answer) := rfl
  have answers : (returnByte (s.ask event)).answers = s.answers.tail := rfl
  refine ⟨_, runs, fun v rest linedUp => ?_, fun noneLeft => ?_, rfl⟩
  · rw [rsp, answers, State.answer_of_cons linedUp, linedUp]
    exact ⟨rfl, rfl⟩
  · rw [rsp, answers, State.answer_of_nil noneLeft, noneLeft]
    exact ⟨rfl, rfl⟩

end Sys2Proof.Machine
end

section
/-! SUPPORT. Reset and hazards (70_reset_and_hazards.md R250, R254, R256): the two windows of work RAM, the DMA trigger
and its neighbours in a word write, and the reset table. -/

namespace Sys2Proof

/-- The address one window higher has the same offset: 0x2000 is the size of work RAM (R85, R118). -/
theorem offset13_add_mirror (a : Addr) : offset13 (a + 0x2000#16) = offset13 a := by
  apply BitVec.eq_of_toNat_eq
  rw [offset13_toNat, offset13_toNat, BitVec.toNat_add, BitVec.toNat_ofNat]
  omega

/-- Only the addresses 0xC000 to 0xFDFF reach work RAM, each at its own offset (R117, R118). -/
theorem range_of_decodeAddr_wram {c : Config} {ov : Bool} {a o : Addr} (h : decodeAddr c ov a = .wram o) :
    0xC000 ≤ a.toNat ∧ a.toNat < 0xFE00 ∧ o = offset13 a := by
  rcases decodeAddr_cases c ov a with ⟨-, d⟩ | ⟨-, -, d⟩ | ⟨-, -, d⟩ | ⟨lo, hi, d⟩ | ⟨-, -, d⟩ | ⟨-, -, d⟩ | ⟨-, d⟩ |
    ⟨-, -, d⟩ | ⟨-, -, d⟩ <;> rw [d] at h
  · rcases imageWindowDest_cases ov a with ⟨-, -, w⟩ | ⟨-, w⟩ <;> rw [w] at h <;> cases h
  · cases h
  · cases h
  · cases h
    exact ⟨lo, hi, rfl⟩
  · cases h
  · cases h
  · cases h
  · cases h
  · split_ifs at h

/-- The display controller answers in its default blocks, but for the trigger (R121, R125; log 7, 8). -/
theorem decodeAddr_default_dcreg (ov : Bool) {a : Addr} (lo : 0xFF40 ≤ a.toNat) (hi : a.toNat ≤ 0xFF7F)
    (other : a.toNat ≠ 0xFF46) : decodeAddr Config.default ov a = .dcreg := by
  rw [defaultIoPageMap ov a (by omega) hi, if_neg (by omega), if_neg (by omega), if_neg (by omega), if_neg other]

end Sys2Proof

namespace Sys2Proof.Machine

/-! ### The windows of work RAM (R254) -/

/-- Two addresses of one writable byte: what is written at the first is read at the second. -/
theorem readByte_writeByte_of_byte {a b : Addr} {s : State} {id : StoreId} {k : Nat}
    (written : (decodeAddr s.cfg s.ov a).byte = some (id, k)) (read : (decodeAddr s.cfg s.ov b).byte = some (id, k))
    (writable : id ≠ .boot ∧ id ≠ .rom) (v : Byte) : (readByte b (writeByte a v s)).1 = v := by
  have after : (decodeAddr (writeByte a v s).cfg (writeByte a v s).ov b).byte = some (id, k) := by
    rwa [writeByte_cfg, writeByte_ov]
  rw [readByte_of_byte after, writeByte_peek (Dest.ne_dma_of_byte written), if_pos ⟨written, writable⟩]

/-- Settles O47: both windows name the byte at the offset they share; another address with the destination of `a` would
be `a + 0x2000`, and that lies past the mirror for `a` above 0xDDFF. -/
theorem workRamWindowsShareTheirBytes : Obligations.WorkRamWindowsShareTheirBytes := by
  intro a v s
  refine ⟨fun lo hi => ?shared, fun lo hi b same => ?unshared⟩
  case shared =>
    have up : (a + 0x2000#16).toNat = a.toNat + 0x2000 := BitVec.toNat_add_of_lt (by simp; omega)
    have low : decodeAddr s.cfg s.ov a = .wram (offset13 a) := decodeAddr_wram _ _ _ lo (by omega)
    have high : decodeAddr s.cfg s.ov (a + 0x2000#16) = .wram (offset13 a) := by
      rw [decodeAddr_wram _ _ _ (by omega) (by omega), offset13_add_mirror]
    have lowNames := congrArg Dest.byte low
    have highNames := congrArg Dest.byte high
    exact ⟨low.trans high.symm, readByte_writeByte_of_byte lowNames highNames (by decide) v,
      readByte_writeByte_of_byte highNames lowNames (by decide) v⟩
  case unshared =>
    rw [decodeAddr_wram _ _ a (by omega) (by omega)] at same
    obtain ⟨loB, hiB, offset⟩ := range_of_decodeAddr_wram same
    have remainder := congrArg BitVec.toNat offset
    rw [offset13_toNat, offset13_toNat] at remainder
    exact BitVec.eq_of_toNat_eq (by omega)

/-! ### A word write over the DMA trigger (R256) -/

section
variable {s : State} (hc : s.cfg = Config.default)
include hc

theorem writeByte_default_dcreg {a : Addr} (lo : 0xFF40 ≤ a.toNat) (hi : a.toNat ≤ 0xFF7F) (other : a.toNat ≠ 0xFF46)
    (v : Byte) : writeByte a v s = s.emit (.dcWr a v) := by
  rw [writeByte, hc, decodeAddr_default_dcreg s.ov lo hi other]
  rfl

theorem writeByte_default_dma (v : Byte) : writeByte 0xFF46#16 v s = dma v s := by
  rw [writeByte, hc, defaultIoPageMap s.ov 0xFF46#16 (by decide) (by decide)]
  rfl

end

theorem exec_wrw (a : Addr) (w : Word) (s : State) : exec (.wrw a w) s = .next (writeWord a w s).returnNothing := rfl

/-- Settles O32: the trigger is the upper byte of the one word and the lower byte of the other; the other byte is the
display controller's, and a transfer keeps the parameters that say so. -/
theorem wordWriteOverTheDmaTrigger : Obligations.WordWriteOverTheDmaTrigger := by
  intro w s hc
  have upper : writeWord 0xFF45#16 w s = dma (highByte w) (s.emit (.dcWr 0xFF45#16 (lowByte w))) := by
    rw [writeWord, writeByte_default_dcreg hc (by decide) (by decide) (by decide)]
    exact writeByte_default_dma (s := s.emit _) hc _
  have lower : writeWord 0xFF46#16 w s = (dma (lowByte w) s).emit (.dcWr 0xFF47#16 (highByte w)) := by
    have kept : (dma (lowByte w) s).cfg = Config.default := (dmaUpTo_cfg ..).trans hc
    rw [writeWord, writeByte_default_dma hc]
    exact writeByte_default_dcreg (a := 0xFF47#16) kept (by decide) (by decide) (by decide) _
  refine ⟨⟨none, ?_⟩, none, ?_⟩
  · rw [exec_wrw, upper]
    rfl
  · rw [exec_wrw, lower]
    rfl

/-! ### The reset table (R250, R211) -/

theorem exec_reset (s : State) : exec .reset s = .next s.setOverlay.zeroRam.returnNothing := rfl

/-- The stores of unspecified content at power-on (R22, R23, R24, R27; D18, D17, D19). -/
theorem reset_peek_unspecified : ∀ id ∈ [StoreId.boot, .rom, .vram, .oam], ∀ k,
    State.reset.peek id k = Config.unspecifiedByte id k := by
  simp only [List.forall_mem_cons, List.not_mem_nil, false_imp_iff, implies_true, and_true]
  exact ⟨fun _ => rfl, fun _ => rfl, fun _ => rfl, fun _ => rfl⟩

/-- The RAM stores at power-on (R25, R26, R28). -/
theorem reset_peek_ram : ∀ id ∈ [StoreId.eram, .wram, .hram], ∀ k, State.reset.peek id k = 0x00#8 := by
  simp only [List.forall_mem_cons, List.not_mem_nil, false_imp_iff, implies_true, and_true]
  exact ⟨fun _ => rfl, fun _ => rfl, fun _ => rfl⟩

theorem zeroRam_peek_ram (s : State) : ∀ id ∈ [StoreId.eram, .wram, .hram], ∀ k, s.zeroRam.peek id k = 0x00#8 := by
  simp [State.peek]

theorem zeroRam_memory_kept (s : State) : ∀ id ∈ [StoreId.boot, .rom, .vram, .oam],
    s.zeroRam.memory id = s.memory id := by
  simp

/-- Settles O34: the state after power-on holds the table's values, and `RESET` is the flag set and the three RAM stores
zeroed, with everything else as it was. -/
theorem resetGivesTheResetTable : Obligations.ResetGivesTheResetTable := by
  refine ⟨⟨rfl, reset_peek_unspecified, reset_peek_ram, rfl⟩, fun s => ⟨_, exec_reset s, rfl, fun id kept => ?_,
    fun id ram k => ?_, rfl, rfl, rfl, rfl, rfl, rfl, rfl, rfl, rfl⟩⟩
  · rw [State.returnNothing_memory, zeroRam_memory_kept _ id kept, State.setOverlay_memory]
  · rw [State.returnNothing_peek, zeroRam_peek_ram _ id ram]

end Sys2Proof.Machine
end
